-- ==== Sys2Proof/Word.lean ====
section
/-! DEFINITION. The word types of the Bit-Timed Serial Receiver: the widths of `00_scope.md` R6 and of the
word formats of `30_encoding.md` R90. -/

namespace Sys2Proof

/-- A buffer entry or the assembly register: `BYTE_W` = 8 (R6). -/
abbrev Byte := BitVec 8

/-- A host bus word, a bus address, a delay constant, `COUNT` or `WPTR`: 16 bits (R6). -/
abbrev Half := BitVec 16

/-- The busy-wait counter: `TIMER_W` = 17 (R6). -/
abbrev TimerWord := BitVec 17

/-- Format T, the operation selector (R90, R91). -/
abbrev TWord := BitVec 10

/-- Format B, the bus command word (R90, R95). -/
abbrev BWord := BitVec 34

/-- Format I, all inputs of one tick (R90, R107). -/
abbrev IWord := BitVec 36

end Sys2Proof
end

