-- ==== Sys2Proof/Config.lean ====
section
/-! DEFINITION. What one implementation fixes and the spec leaves open, and the free values: constants without a
body, so that nothing proved about the model depends on what they are. -/

namespace Sys2Proof

/-- The highest buffer index, `CAPACITY - 1`. `CAPACITY` is OPEN, any integer from 1 to 32768
(`00_scope.md` R6, R7; `93_implementation_defined.md` U9); the type says exactly that range.
DESIGN CHOICE (log entry 1), safe. -/
opaque Config.capacityTop : Fin 32768

/-- The real time of one tick, in nanoseconds. OPEN and informational: no rule reads it (R6, U10), so no
definition of the model does. DESIGN CHOICE (log entry 2), safe. -/
opaque Config.tickPeriod : Nat

/-- The byte that buffer entry `index` holds while no `Append` has written it since the RST tick numbered
`epoch`: some fixed but unknown value (U3; `10_state.md` R36). DESIGN CHOICE (log entry 3), safe. -/
opaque Config.freeByte (epoch index : Nat) : Byte

/-- The format-I word of all inputs of tick `n`, where no script gives them: the host and the line are free
agents (`00_scope.md` R10). DESIGN CHOICE (log entry 4), safe. -/
opaque Config.freeInput (n : Nat) : IWord

end Sys2Proof
end

