-- ==== Sys2Proof/Syntax.lean ====
section
/-! DEFINITION. The instructions: the ten receiver operations (format T) and the seventeen host bus commands
(format B) of `30_encoding.md` R92 and R96, one constructor per row of the opcode table, in its order. -/

namespace Sys2Proof

/-- One receiver operation or one bus command. `rx` is the operand T[0] of an operation (`30_encoding.md` R94);
`wdata`, `addr` and `index` are fields of the bus command word (R95, R97). -/
inductive Instr where
  /-- `RST`: synchronous reset (`43_host_and_reset_ops.md` R200). -/
  | rst
  /-- `IDLE.START`: start bit detected (`40_idle_and_start.md` R132). It uses `rx` only through `fall`, so `rx` is 0. -/
  | idleStart
  /-- `IDLE.POLL`: wait for a start edge (R131). -/
  | idlePoll (rx : Bool)
  /-- `SAMP.WAIT`: one tick of busy-wait in SAMPLING (`41_sampling.md` R150). -/
  | sampWait (rx : Bool)
  /-- `SAMP.BIT`: sample one of data bits 0 to 6 (R151). -/
  | sampBit (rx : Bool)
  /-- `SAMP.LAST`: sample data bit 7 (R152). -/
  | sampLast (rx : Bool)
  /-- `STOP.WAIT`: one tick of busy-wait in STOP_WAIT (`42_stop_and_commit.md` R170). -/
  | stopWait (rx : Bool)
  /-- `STOP.NEXT`: first of two stop delays ended (R171). -/
  | stopNext (rx : Bool)
  /-- `STOP.DONE1`: the only stop delay ended, commit (R173). -/
  | stopDone1 (rx : Bool)
  /-- `STOP.DONE2`: the second stop delay ended, commit (R174). -/
  | stopDone2 (rx : Bool)
  /-- `BUS.NOP`: no bus command (`43_host_and_reset_ops.md` R201). -/
  | busNop
  /-- `WR.FULL`: write the full-bit delay (R202). -/
  | wrFull (wdata : Half)
  /-- `WR.HALF`: write the half-bit delay (R203). -/
  | wrHalf (wdata : Half)
  /-- `WR.CTRL`: write the control register (R204). -/
  | wrCtrl (wdata : Half)
  /-- `WR.IGN`: a write to any other address (R205). -/
  | wrIgn (addr wdata : Half)
  /-- `RD.FULL` (R206). -/
  | rdFull
  /-- `RD.HALF` (R207). -/
  | rdHalf
  /-- `RD.CTRL` (R208). -/
  | rdCtrl
  /-- `RD.STATUS` (R209). -/
  | rdStatus
  /-- `RD.COUNT` (R210). -/
  | rdCount
  /-- `RD.WPTR` (R211). -/
  | rdWptr
  /-- `RD.SHREG` (R212). -/
  | rdShreg
  /-- `RD.TIMER_LO` (R213). -/
  | rdTimerLo
  /-- `RD.TIMER_HI` (R214). -/
  | rdTimerHi
  /-- `RD.CAPACITY` (R215). -/
  | rdCapacity
  /-- `RD.BUF`: read buffer entry `index` (R216). -/
  | rdBuf (index : BitVec 15)
  /-- `RD.RSVD`: a read of a reserved address (R217). -/
  | rdRsvd (addr : Half)
  deriving DecidableEq, Repr

/-- The spelling of each instruction (`30_encoding.md` R110). -/
def Instr.mnemonic : Instr → String
  | .rst => "RST"
  | .idleStart => "IDLE.START"
  | .idlePoll _ => "IDLE.POLL"
  | .sampWait _ => "SAMP.WAIT"
  | .sampBit _ => "SAMP.BIT"
  | .sampLast _ => "SAMP.LAST"
  | .stopWait _ => "STOP.WAIT"
  | .stopNext _ => "STOP.NEXT"
  | .stopDone1 _ => "STOP.DONE1"
  | .stopDone2 _ => "STOP.DONE2"
  | .busNop => "BUS.NOP"
  | .wrFull _ => "WR.FULL"
  | .wrHalf _ => "WR.HALF"
  | .wrCtrl _ => "WR.CTRL"
  | .wrIgn _ _ => "WR.IGN"
  | .rdFull => "RD.FULL"
  | .rdHalf => "RD.HALF"
  | .rdCtrl => "RD.CTRL"
  | .rdStatus => "RD.STATUS"
  | .rdCount => "RD.COUNT"
  | .rdWptr => "RD.WPTR"
  | .rdShreg => "RD.SHREG"
  | .rdTimerLo => "RD.TIMER_LO"
  | .rdTimerHi => "RD.TIMER_HI"
  | .rdCapacity => "RD.CAPACITY"
  | .rdBuf _ => "RD.BUF"
  | .rdRsvd _ => "RD.RSVD"

/-- The receiver operations: what format T encodes. Every other instruction is a bus command, format B. -/
def Instr.isOperation : Instr → Bool
  | .rst | .idleStart | .idlePoll _ | .sampWait _ | .sampBit _ | .sampLast _ | .stopWait _ | .stopNext _
  | .stopDone1 _ | .stopDone2 _ => true
  | .busNop | .wrFull _ | .wrHalf _ | .wrCtrl _ | .wrIgn _ _ | .rdFull | .rdHalf | .rdCtrl | .rdStatus | .rdCount
  | .rdWptr | .rdShreg | .rdTimerLo | .rdTimerHi | .rdCapacity | .rdBuf _ | .rdRsvd _ => false

end Sys2Proof
end

