-- ==== Sys2Proof/WellFormed.lean ====
section
/-! DEFINITION. The checks an instruction's operands meet. Only the two rows that stand for "any other address"
restrict an operand; everywhere else every operand value is legal. -/

namespace Sys2Proof

/-- `WR.IGN` is a write to an address other than 0x0000, 0x0001, 0x0002 (`43_host_and_reset_ops.md` R205). -/
def ignoredWrite (addr : Half) : Bool := 0x0003#16 ≤ addr

/-- `RD.RSVD` is a read of an address from 0x000A to 0x7FFF (R217). -/
def reservedRead (addr : Half) : Bool := 0x000A#16 ≤ addr && addr ≤ 0x7FFF#16

/-- The operands are ones that the instruction's row of the table can carry. -/
def Instr.wellFormed : Instr → Bool
  | .wrIgn addr _ => ignoredWrite addr
  | .rdRsvd addr => reservedRead addr
  | .rst | .idleStart | .idlePoll _ | .sampWait _ | .sampBit _ | .sampLast _ | .stopWait _ | .stopNext _
  | .stopDone1 _ | .stopDone2 _ | .busNop | .wrFull _ | .wrHalf _ | .wrCtrl _ | .rdFull | .rdHalf | .rdCtrl
  | .rdStatus | .rdCount | .rdWptr | .rdShreg | .rdTimerLo | .rdTimerHi | .rdCapacity | .rdBuf _ => true

end Sys2Proof
end

