-- ==== Sys2Proof/Decode.lean ====
section
/-! DEFINITION. The decoder: the two opcode tables of `30_encoding.md` R92 and R96 as rows of a mask and a match,
first matching row wins (R111); and the encoder, written from the same tables. -/

namespace Sys2Proof

/-- Why a word is no instruction. -/
inductive DecodeError where
  /-- A T word with `rst` = 0 and the reserved state code 3 matches no row (R93, R104). -/
  | reservedState
  /-- A B word that matches no row; no such word exists (R96). -/
  | noBusRow
  /-- A number with a bit above the format's width: T is 10 bits, B is 34 bits (R90). -/
  | tooWide
  deriving DecidableEq, Repr

/-- A word of one of the two formats that encode instructions (R90). -/
inductive CodeWord where
  | T (w : TWord)
  | B (w : BWord)
  deriving DecidableEq, Repr

/-- One row of an opcode table: the bits it looks at, the value they must have, and the instruction it then is. -/
structure OpRow (width : Nat) where
  mnemonic : String
  mask : BitVec width
  value : BitVec width
  build : BitVec width → Instr

/-- A row matches a word when the masked bits are the row's value (R92, R96). -/
def OpRow.hits {width : Nat} (r : OpRow width) (w : BitVec width) : Bool := w &&& r.mask == r.value

/-- The operand `rx` = T[0] (R91, R94). -/
def tRx (w : TWord) : Bool := w.getLsbD 0

/-- The field `addr` = B[31:16] (R95). -/
def bAddr (w : BWord) : Half := w.extractLsb' 16 16

/-- The field `wdata` = B[15:0] (R95). -/
def bWdata (w : BWord) : Half := w.extractLsb' 0 16

/-- The buffer window index `addr[14:0]` = B[30:16] (R97, R216). -/
def bIndex (w : BWord) : BitVec 15 := w.extractLsb' 16 15

/-- The operation table of R92, in its order. -/
def tRows : List (OpRow 10) :=
  [ ⟨"RST",        0x200#10, 0x200#10, fun _ => .rst⟩,
    ⟨"IDLE.START", 0x3E0#10, 0x180#10, fun _ => .idleStart⟩,
    ⟨"IDLE.POLL",  0x260#10, 0x000#10, fun w => .idlePoll (tRx w)⟩,
    ⟨"SAMP.WAIT",  0x270#10, 0x020#10, fun w => .sampWait (tRx w)⟩,
    ⟨"SAMP.BIT",   0x278#10, 0x030#10, fun w => .sampBit (tRx w)⟩,
    ⟨"SAMP.LAST",  0x278#10, 0x038#10, fun w => .sampLast (tRx w)⟩,
    ⟨"STOP.WAIT",  0x270#10, 0x040#10, fun w => .stopWait (tRx w)⟩,
    ⟨"STOP.NEXT",  0x276#10, 0x052#10, fun w => .stopNext (tRx w)⟩,
    ⟨"STOP.DONE1", 0x276#10, 0x050#10, fun w => .stopDone1 (tRx w)⟩,
    ⟨"STOP.DONE2", 0x274#10, 0x054#10, fun w => .stopDone2 (tRx w)⟩ ]

/-- The bus command table of R96, in its order. -/
def bRows : List (OpRow 34) :=
  [ ⟨"BUS.NOP",     0x200000000#34, 0x000000000#34, fun _ => .busNop⟩,
    ⟨"WR.FULL",     0x3FFFF0000#34, 0x300000000#34, fun w => .wrFull (bWdata w)⟩,
    ⟨"WR.HALF",     0x3FFFF0000#34, 0x300010000#34, fun w => .wrHalf (bWdata w)⟩,
    ⟨"WR.CTRL",     0x3FFFF0000#34, 0x300020000#34, fun w => .wrCtrl (bWdata w)⟩,
    ⟨"WR.IGN",      0x300000000#34, 0x300000000#34, fun w => .wrIgn (bAddr w) (bWdata w)⟩,
    ⟨"RD.FULL",     0x3FFFF0000#34, 0x200000000#34, fun _ => .rdFull⟩,
    ⟨"RD.HALF",     0x3FFFF0000#34, 0x200010000#34, fun _ => .rdHalf⟩,
    ⟨"RD.CTRL",     0x3FFFF0000#34, 0x200020000#34, fun _ => .rdCtrl⟩,
    ⟨"RD.STATUS",   0x3FFFF0000#34, 0x200030000#34, fun _ => .rdStatus⟩,
    ⟨"RD.COUNT",    0x3FFFF0000#34, 0x200040000#34, fun _ => .rdCount⟩,
    ⟨"RD.WPTR",     0x3FFFF0000#34, 0x200050000#34, fun _ => .rdWptr⟩,
    ⟨"RD.SHREG",    0x3FFFF0000#34, 0x200060000#34, fun _ => .rdShreg⟩,
    ⟨"RD.TIMER_LO", 0x3FFFF0000#34, 0x200070000#34, fun _ => .rdTimerLo⟩,
    ⟨"RD.TIMER_HI", 0x3FFFF0000#34, 0x200080000#34, fun _ => .rdTimerHi⟩,
    ⟨"RD.CAPACITY", 0x3FFFF0000#34, 0x200090000#34, fun _ => .rdCapacity⟩,
    ⟨"RD.BUF",      0x380000000#34, 0x280000000#34, fun w => .rdBuf (bIndex w)⟩,
    ⟨"RD.RSVD",     0x300000000#34, 0x200000000#34, fun w => .rdRsvd (bAddr w)⟩ ]

/-- The receiver operation a T word selects: the first row it matches (R92). -/
def decodeT (w : TWord) : Except DecodeError Instr :=
  match tRows.find? (fun r => r.hits w) with
  | some r => .ok (r.build w)
  | none => .error .reservedState

/-- The bus command a B word is: the first row it matches (R96). -/
def decodeB (w : BWord) : Except DecodeError Instr :=
  match bRows.find? (fun r => r.hits w) with
  | some r => .ok (r.build w)
  | none => .error .noBusRow

/-- The decoder of both formats. -/
def decode : CodeWord → Except DecodeError Instr
  | .T w => decodeT w
  | .B w => decodeB w

/-- The decoder on bits as the opcode table numbers them, `nbits` being the row's width in whole bytes: up to two
bytes are a T word, more are a B word. Total: a number wider than its format is rejected by name. -/
def decodeBits (nbits w : Nat) : Except DecodeError Instr :=
  if nbits ≤ 16 then
    if w < 2 ^ 10 then decodeT (BitVec.ofNat 10 w) else .error .tooWide
  else
    if w < 2 ^ 34 then decodeB (BitVec.ofNat 34 w) else .error .tooWide

/-- The instruction the decoder reads from a table word, `none` where it refuses it. -/
def decodeTableWord (nbits w : Nat) : Option Instr :=
  match decodeBits nbits w with
  | .ok i => some i
  | .error _ => none

/-- A T word: a row's match with the operand `rx` in bit 0 and every other ignored bit 0 (R92). -/
def tWord (value : TWord) (rx : Bool) : CodeWord := .T (value ||| (BitVec.ofBool rx).setWidth 10)

/-- A B word from its fields `valid`, `we`, `addr`, `wdata` (R95). -/
def bWord (valid we : Bool) (addr wdata : Half) : BWord :=
  BitVec.ofBool valid ++ BitVec.ofBool we ++ addr ++ wdata

/-- A write command word. -/
def writeWord (addr wdata : Half) : CodeWord := .B (bWord true true addr wdata)

/-- A read command word; `wdata` is ignored and written 0. -/
def readWord (addr : Half) : CodeWord := .B (bWord true false addr 0)

/-- The address of buffer entry `index` in the host bus space: 0x8000 + index (`20_memory.md` R63). -/
def windowAddr (index : BitVec 15) : Half := 1#1 ++ index

/-- The word of a well-formed instruction, ignored bits written 0 (R92, R96). -/
def encode : Instr → CodeWord
  | .rst => .T 0x200#10
  | .idleStart => .T 0x180#10
  | .idlePoll rx => tWord 0x000#10 rx
  | .sampWait rx => tWord 0x020#10 rx
  | .sampBit rx => tWord 0x030#10 rx
  | .sampLast rx => tWord 0x038#10 rx
  | .stopWait rx => tWord 0x040#10 rx
  | .stopNext rx => tWord 0x052#10 rx
  | .stopDone1 rx => tWord 0x050#10 rx
  | .stopDone2 rx => tWord 0x054#10 rx
  | .busNop => .B (bWord false false 0 0)
  | .wrFull wdata => writeWord 0x0000#16 wdata
  | .wrHalf wdata => writeWord 0x0001#16 wdata
  | .wrCtrl wdata => writeWord 0x0002#16 wdata
  | .wrIgn addr wdata => writeWord addr wdata
  | .rdFull => readWord 0x0000#16
  | .rdHalf => readWord 0x0001#16
  | .rdCtrl => readWord 0x0002#16
  | .rdStatus => readWord 0x0003#16
  | .rdCount => readWord 0x0004#16
  | .rdWptr => readWord 0x0005#16
  | .rdShreg => readWord 0x0006#16
  | .rdTimerLo => readWord 0x0007#16
  | .rdTimerHi => readWord 0x0008#16
  | .rdCapacity => readWord 0x0009#16
  | .rdBuf index => readWord (windowAddr index)
  | .rdRsvd addr => readWord addr

end Sys2Proof
end

