-- ==== Sys2Proof/Machine/State.lean ====
section
/-! DEFINITION. The state of the Bit-Timed Serial Receiver (`10_state.md`), the inputs and outputs of a tick, the
reasons a step can stop, and the state after reset. -/

namespace Sys2Proof.Machine

/-- The three states of the sequencer; code 3 is reserved and cannot be written down (`10_state.md` R25;
`30_encoding.md` R104). -/
inductive SeqState where
  | idle
  | sampling
  | stopWait
  deriving DecidableEq, Repr

/-- The input ports of one tick (R20), what format I packs (`30_encoding.md` R107). -/
structure Inputs where
  /-- `rst`, synchronous reset. -/
  rst : Bool
  /-- `rx`, the digital input pin. -/
  rx : Bool
  /-- `bus_valid`. -/
  busValid : Bool
  /-- `bus_we`. -/
  busWe : Bool
  /-- `bus_addr`. -/
  busAddr : Half
  /-- `bus_wdata`. -/
  busWdata : Half
  deriving DecidableEq, Repr

/-- The output ports of one tick (R20), but for `tx`, which is constant. -/
structure Outputs where
  /-- `bus_rdata`: read data, 0 when the tick's command is no read. -/
  busRdata : Half
  /-- `frame_done`: a frame committed in this tick. -/
  frameDone : Bool
  /-- `framing_error`: a stop-bit sample was LOW in this tick. -/
  framingError : Bool
  /-- `buffer_full`: an `Append` found the buffer at capacity in this tick. -/
  bufferFull : Bool
  deriving DecidableEq, Repr

/-- The byte buffer as the list of the entries that some `Append` has written since the last RST, in strictly
rising order of index. An index not listed holds no specified value (R36; U3). -/
abbrev Memory := List Host.Cell

/-- Everything the spec gives the machine, and four fields of the model's own: `out`, `script`, `tickNo`,
`bufEpoch`. -/
structure State where
  /-- `STATE` (R25). -/
  seq : SeqState
  /-- `TIMER`, the busy-wait counter (R28). -/
  timer : TimerWord
  /-- `BITIDX`, the data bit the next sample fills (R26). -/
  bitIdx : BitVec 3
  /-- `STOPCNT`, stop delays completed (R27). -/
  stopCnt : BitVec 1
  /-- `SHREG`, the byte being assembled (R29). -/
  shreg : Byte
  /-- `RX_PREV`, the pin sampler's memory (R30). -/
  rxPrev : Bool
  /-- `FRAME_VALID` (R31). -/
  frameValid : Bool
  /-- `FRAMING_ERROR`, sticky (R32). -/
  framingError : Bool
  /-- `BUFFER_FULL`, sticky (R33). -/
  bufferFull : Bool
  /-- `COUNT` (R34). -/
  count : Half
  /-- `WPTR` (R35). -/
  wptr : Half
  /-- `BUF` (R36). -/
  buf : Memory
  /-- `FULL_DELAY` (R37). -/
  fullDelay : Half
  /-- `HALF_DELAY` (R38). -/
  halfDelay : Half
  /-- `CTRL.EN` (R39). -/
  en : Bool
  /-- `CTRL.STOP2` (R39). -/
  stop2 : Bool
  /-- `CTRL.OVF_HALT` (R39). -/
  ovfHalt : Bool
  /-- The parameter `CAPACITY`, held as `CAPACITY - 1` so that it is in its range by type (`00_scope.md` R6). No
  operation writes it. DESIGN CHOICE (log entry 1), safe. -/
  capacityTop : Fin 32768
  /-- Model's own: the outputs of the last tick (R23). No operation reads them. DEDUCED (log entry 7), safe. -/
  out : Outputs
  /-- Model's own: the inputs of the coming ticks, the next tick's first. DESIGN CHOICE (log entry 4), safe. -/
  script : List Inputs
  /-- Model's own: how many ticks have been taken; numbers the free inputs. DESIGN CHOICE (log entry 4), safe. -/
  tickNo : Nat
  /-- Model's own: how many RST ticks have been taken; numbers the free buffer bytes. DESIGN CHOICE (log entry 3),
  safe. -/
  bufEpoch : Nat
  deriving DecidableEq, Repr

/-- What stops the machine. The spec has no trap (`60_exceptions.md` R236): the one fault guards states that no run
reaches. -/
inductive Fault where
  /-- Raised by `Append` when the write index is not below `CAPACITY`: there is no such entry
  (`42_stop_and_commit.md` R177; U1). Safe: `WPTR` < `CAPACITY` in every state a run reaches (`10_state.md` R47). -/
  | bufferIndexOutOfRange
  deriving DecidableEq, Repr

/-- Why an instruction has no meaning. -/
inductive Refusal where
  /-- Raised by an arm of `exec` whose instruction has no meaning yet; no arm does. Safe. -/
  | notModelled (mnemonic : String)
  /-- Raised by a tick whose selector or bus command word matches no row of its table; no State has such a tick
  (`30_encoding.md` R93, R96). Safe. -/
  | noRow (e : DecodeError)
  deriving DecidableEq, Repr

/-- The answer of a meaning, of a tick and of a step. -/
abbrev Result := Host.Outcome State Fault Refusal

/-- The state after an RST tick of a machine whose highest buffer index is `top`: the table of R46, no output
asserted (R22, R200), nothing known of the inputs to come. -/
def State.resetWith (top : Fin 32768) : State where
  seq := .idle
  timer := 0
  bitIdx := 0
  stopCnt := 0
  shreg := 0
  rxPrev := false
  frameValid := false
  framingError := false
  bufferFull := false
  count := 0
  wptr := 0
  buf := []
  fullDelay := 0
  halfDelay := 0
  en := false
  stop2 := false
  ovfHalt := false
  capacityTop := top
  out := { busRdata := 0, frameDone := false, framingError := false, bufferFull := false }
  script := []
  tickNo := 0
  bufEpoch := 0

/-- The machine right after reset, with the implementation's own `CAPACITY` (R46; `70_reset_and_hazards.md` R260). -/
def State.reset : State := State.resetWith Config.capacityTop

end Sys2Proof.Machine
end

