-- ==== Sys2Proof/Machine/Operands.lean ====
section
/-! DEFINITION. How each operand, field and view is assembled (`30_encoding.md` R97, R99; `10_state.md` R39, R43,
R44), and the input words of a tick (R95, R107). -/

namespace Sys2Proof.Machine

/-- `CAPACITY`, from 1 to 32768 (`00_scope.md` R6). -/
def State.capacity (s : State) : Nat := s.capacityTop.val + 1

/-- The load of a full-bit delay: `zext_17(FULL_DELAY)` (`30_encoding.md` R97). -/
def delayLoad (full : Half) : TimerWord := full.setWidth 17

/-- The load of IDLE.START: `zext_17(HALF_DELAY) + zext_17(FULL_DELAY)` (R97; `40_idle_and_start.md` R132). -/
def startLoad (half full : Half) : TimerWord := half.setWidth 17 + full.setWidth 17

/-- The sampled bit at its ordinal position: `zext_8(rx) << k` (R97; `41_sampling.md` R153). -/
def dataBit (rx : Bool) (k : BitVec 3) : Byte := (BitVec.ofBool rx).setWidth 8 <<< k.toNat

/-- The 2-bit code of the sequencer's state (`30_encoding.md` R98). -/
def SeqState.code : SeqState → BitVec 2
  | .idle => 0
  | .sampling => 1
  | .stopWait => 2

/-- `CTRL` as a word: reserved bits 15:3 read 0 (`10_state.md` R39; `30_encoding.md` R99). -/
def State.ctrlWord (s : State) : Half :=
  0#13 ++ BitVec.ofBool s.ovfHalt ++ BitVec.ofBool s.stop2 ++ BitVec.ofBool s.en

/-- `STATUS` as a word (`10_state.md` R43; `30_encoding.md` R99). -/
def State.statusWord (s : State) : Half :=
  0#6 ++ s.bitIdx ++ s.stopCnt ++ BitVec.ofBool s.rxPrev ++ BitVec.ofBool s.bufferFull
    ++ BitVec.ofBool s.framingError ++ BitVec.ofBool s.frameValid ++ s.seq.code

/-- `TIMER[15:0]` (`10_state.md` R44). -/
def State.timerLo (s : State) : Half := s.timer.extractLsb' 0 16

/-- `zext_16(TIMER[16])` (R44). -/
def State.timerHi (s : State) : Half := (s.timer.extractLsb' 16 1).setWidth 16

/-- `CAPACITY` as a 16-bit number (R44; it is at most 32768). -/
def State.capacityWord (s : State) : Half := BitVec.ofNat 16 s.capacity

/-- The buffer index of a window address: `addr[14:0]` (`30_encoding.md` R97). -/
def windowIndex (addr : Half) : BitVec 15 := addr.extractLsb' 0 15

/-- The bus command word B of a tick's inputs (R95). -/
def Inputs.busWord (inp : Inputs) : BWord := bWord inp.busValid inp.busWe inp.busAddr inp.busWdata

/-- The format-I word `rst, rx, B` of a tick's inputs (R107). -/
def Inputs.toWord (inp : Inputs) : IWord := BitVec.ofBool inp.rst ++ BitVec.ofBool inp.rx ++ inp.busWord

/-- The inputs a format-I word stands for (R107, R95). -/
def Inputs.ofWord (w : IWord) : Inputs where
  rst := w.getLsbD 35
  rx := w.getLsbD 34
  busValid := w.getLsbD 33
  busWe := w.getLsbD 32
  busAddr := w.extractLsb' 16 16
  busWdata := w.extractLsb' 0 16

/-- The event outputs as a vector `buffer_full, framing_error, frame_done` (R100). -/
def Outputs.events (o : Outputs) : BitVec 3 :=
  BitVec.ofBool o.bufferFull ++ BitVec.ofBool o.framingError ++ BitVec.ofBool o.frameDone

/-- The output port `tx`: constant 1 from the first tick on, whatever the state (`10_state.md` R24). -/
def State.tx (_ : State) : Bool := true

end Sys2Proof.Machine
end

