-- ==== Sys2Proof/Machine/Flags.lean ====
section
/-! DEFINITION. The one-bit conditions of the selector word and the word itself (`30_encoding.md` R91). -/

namespace Sys2Proof.Machine

/-- `start_ok`: starting a frame is enabled and not halted (R91). -/
def State.startOk (s : State) : Bool := s.en && !(s.bufferFull && s.ovfHalt)

/-- `fall`: HIGH at the previous tick and LOW now (R91; `40_idle_and_start.md` R130). -/
def State.fall (s : State) (rx : Bool) : Bool := s.rxPrev && !rx

/-- `texp`: the wait ends at this tick, `TIMER` <= 1 (R91; `10_state.md` R28). -/
def State.texp (s : State) : Bool := s.timer ≤ 1#17

/-- `last`: `BITIDX` = 7 (R91). -/
def State.last (s : State) : Bool := s.bitIdx == 7#3

/-- The selector word T of a tick, from S[n] and the inputs of the tick (R91). -/
def selector (s : State) (inp : Inputs) : TWord :=
  BitVec.ofBool inp.rst ++ BitVec.ofBool s.startOk ++ BitVec.ofBool (s.fall inp.rx) ++ s.seq.code
    ++ BitVec.ofBool s.texp ++ BitVec.ofBool s.last ++ s.stopCnt ++ BitVec.ofBool s.stop2 ++ BitVec.ofBool inp.rx

end Sys2Proof.Machine
end

