-- ==== Sys2Proof/Machine/Ops.lean ====
section
/-! DEFINITION. The named operations the meanings are made of: the byte buffer (`20_memory.md` R60, R61), the pin
sampler, raising a condition, the stop-bit sample, the cyclic buffer writer, and the two bus accesses. -/

namespace Sys2Proof.Machine

/-! ### The byte buffer -/

/-- The canonical form: indices strictly rising. -/
abbrev Memory.wf (m : Memory) : Prop := (m.map Prod.fst).Pairwise (· < ·)

/-- The byte of entry `i`, `none` where no `Append` has written it since the last RST: no value is specified there
(`10_state.md` R36). -/
def Memory.entry : Memory → Nat → Option Byte
  | [], _ => none
  | (a, b) :: m, i => if a = i then some b else Memory.entry m i

/-- Store byte `b` at entry `i`, keeping the canonical form. -/
def Memory.store : Memory → Nat → Byte → Memory
  | [], i, b => [(i, b)]
  | (a, c) :: m, i, b =>
    if i < a then (i, b) :: (a, c) :: m
    else if i = a then (i, b) :: m
    else (a, c) :: Memory.store m i b

/-- Is `i` at most `top`? It is `i ≤ top`, written so that index 0 evaluates whatever the open `CAPACITY` is. -/
def indexWithin : Nat → Nat → Bool
  | 0, _ => true
  | _ + 1, 0 => false
  | i + 1, top + 1 => indexWithin i top

/-- Is `i` the index of a buffer entry, 0 <= i < CAPACITY (`20_memory.md` R60)? -/
def State.inBuffer (s : State) (i : Nat) : Bool := indexWithin i s.capacityTop.val

/-- What the buffer window shows of entry `i`: the byte stored since the last RST or, where there is none, a fixed
but unknown byte (`20_memory.md` R63; U3). DESIGN CHOICE (log entry 3), safe. -/
def State.bufByte (s : State) (i : Nat) : Byte := (s.buf.entry i).getD (Config.freeByte s.bufEpoch i)

/-! ### What every receiver operation does -/

/-- Drive the three event outputs to 0; an operation that raises one sets it after (`10_state.md` R23). -/
def State.clearEvents (s : State) : State :=
  { s with out := { s.out with frameDone := false, framingError := false, bufferFull := false } }

/-- The pin sampler, part of every operation but RST (`40_idle_and_start.md` R130), with no event asserted. -/
def State.samplePin (s : State) (rx : Bool) : State := { s.clearEvents with rxPrev := rx }

/-! ### Conditions: the block's only exceptions -/

/-- The two exceptional conditions (`60_exceptions.md` R230). -/
inductive Condition where
  | framingErrorCondition
  | bufferFullCondition
  deriving DecidableEq, Repr

/-- A condition's code: the bit number of its sticky flag in `STATUS` (R230). -/
def Condition.code : Condition → Nat
  | .framingErrorCondition => 3
  | .bufferFullCondition => 4

/-- `raise c`: set the sticky flag and assert the event for the tick. No state is saved and control goes nowhere
(R231, R232, R236); there is no return (R237). -/
def State.raise (s : State) : Condition → State
  | .framingErrorCondition => { s with framingError := true, out := { s.out with framingError := true } }
  | .bufferFullCondition => { s with bufferFull := true, out := { s.out with bufferFull := true } }

/-! ### The end of a frame -/

/-- `StopSample(v)`: record the stop-bit sample; LOW raises FramingError (`42_stop_and_commit.md` R172). -/
def State.stopSample (s : State) (v : Bool) : State :=
  if v then { s with frameValid := v } else State.raise { s with frameValid := v } .framingErrorCondition

/-- `(WPTR + 1) mod CAPACITY` (R179; `41_sampling.md` R157). -/
def State.nextWptr (s : State) : Half :=
  if s.wptr.toNat = s.capacityTop.val then 0 else s.wptr + 1

/-- `BUF[WPTR] <- b; WPTR <- (WPTR + 1) mod CAPACITY`. An index outside the buffer has no entry to store to and
faults: no run reaches it (R177; `10_state.md` R47). DESIGN CHOICE (log entry 9), safe. -/
def State.storeAtWptr (s : State) (b : Byte) : Result :=
  if s.inBuffer s.wptr.toNat then .next { s with buf := s.buf.store s.wptr.toNat b, wptr := s.nextWptr }
  else .fault .bufferIndexOutOfRange

/-- Go on with the next state; a fault or a refusal stays. -/
def andThen (r : Result) (f : State → State) : Result :=
  match r with
  | .next s => .next (f s)
  | .fault e => .fault e
  | .refused e => .refused e

/-- Is there room in the buffer, `COUNT` < `CAPACITY`? -/
def State.hasRoom (s : State) : Bool := s.count.toNat < s.capacity

/-- `Append(b)`, the cyclic buffer writer (R177, R178): store while there is room; at capacity raise BufferFull and
overwrite the oldest byte, or drop the byte when `OVF_HALT` is 1. -/
def State.append (s : State) (b : Byte) : Result :=
  if s.ovfHalt && !s.hasRoom then .next (s.raise .bufferFullCondition)
  else andThen (s.storeAtWptr b) fun t =>
    if s.hasRoom then { t with count := t.count + 1 } else t.raise .bufferFullCondition

/-- Commit a frame: `Append(SHREG); STATE <- IDLE`, and the event `frame_done` (R173, R174; `10_state.md` R23). -/
def State.commit (s : State) : Result :=
  andThen (s.append s.shreg) fun t => { t with seq := .idle, out := { t.out with frameDone := true } }

/-! ### The host bus -/

/-- `MemRead(addr, 1)`, the value of every bus address (`20_memory.md` R65). -/
def State.memRead (s : State) (addr : Half) : Half :=
  if addr = 0x0000#16 then s.fullDelay
  else if addr = 0x0001#16 then s.halfDelay
  else if addr = 0x0002#16 then s.ctrlWord
  else if addr = 0x0003#16 then s.statusWord
  else if addr = 0x0004#16 then s.count
  else if addr = 0x0005#16 then s.wptr
  else if addr = 0x0006#16 then s.shreg.setWidth 16
  else if addr = 0x0007#16 then s.timerLo
  else if addr = 0x0008#16 then s.timerHi
  else if addr = 0x0009#16 then s.capacityWord
  else if 0x8000#16 ≤ addr && s.inBuffer (windowIndex addr).toNat then
    (s.bufByte (windowIndex addr).toNat).setWidth 16
  else 0

/-- `MemWrite(addr, 1, v)` (R66). -/
def State.memWrite (s : State) (addr v : Half) : State :=
  if addr = 0x0000#16 then { s with fullDelay := v }
  else if addr = 0x0001#16 then { s with halfDelay := v }
  else if addr = 0x0002#16 then
    { s with en := v.getLsbD 0, stop2 := v.getLsbD 1, ovfHalt := v.getLsbD 2 }
  else s

/-- Drive `bus_rdata`. -/
def State.driveRdata (s : State) (v : Half) : State := { s with out := { s.out with busRdata := v } }

/-- A bus read: `bus_rdata = MemRead(addr, 1)`, no other effect (R65, R71). -/
def State.busRead (s : State) (addr : Half) : Result := .next (s.driveRdata (s.memRead addr))

/-- A bus write: `MemWrite(addr, 1, v)`; `bus_rdata` is 0 for a command that is no read
(`43_host_and_reset_ops.md` section 2). -/
def State.busWrite (s : State) (addr v : Half) : Result := .next ((s.memWrite addr v).driveRdata 0)

/-- A command that does nothing; `bus_rdata` is 0. -/
def State.busIdle (s : State) : Result := .next (s.driveRdata 0)

end Sys2Proof.Machine
end

