-- ==== Sys2Proof/Machine/BusRead.lean ====
section
/-! DEFINITION. The bus read commands (`43_host_and_reset_ops.md` R206 to R217). None changes anything but
`bus_rdata`. -/

namespace Sys2Proof.Machine

/-- `RD.FULL` (R206). -/
def execRdFull (s : State) : Result := s.busRead 0x0000#16

/-- `RD.HALF` (R207). -/
def execRdHalf (s : State) : Result := s.busRead 0x0001#16

/-- `RD.CTRL` (R208). -/
def execRdCtrl (s : State) : Result := s.busRead 0x0002#16

/-- `RD.STATUS` (R209). -/
def execRdStatus (s : State) : Result := s.busRead 0x0003#16

/-- `RD.COUNT` (R210). -/
def execRdCount (s : State) : Result := s.busRead 0x0004#16

/-- `RD.WPTR` (R211). -/
def execRdWptr (s : State) : Result := s.busRead 0x0005#16

/-- `RD.SHREG` (R212). -/
def execRdShreg (s : State) : Result := s.busRead 0x0006#16

/-- `RD.TIMER_LO` (R213). -/
def execRdTimerLo (s : State) : Result := s.busRead 0x0007#16

/-- `RD.TIMER_HI` (R214). -/
def execRdTimerHi (s : State) : Result := s.busRead 0x0008#16

/-- `RD.CAPACITY` (R215). -/
def execRdCapacity (s : State) : Result := s.busRead 0x0009#16

/-- `RD.BUF` (R216): entry `index` of the window, 0 at or beyond `CAPACITY`. -/
def execRdBuf (index : BitVec 15) (s : State) : Result := s.busRead (windowAddr index)

/-- `RD.RSVD` (R217): `bus_rdata` = 0, whatever the address. -/
def execRdRsvd (_addr : Half) (s : State) : Result := .next (s.driveRdata 0)

end Sys2Proof.Machine
end

