-- ==== Sys2Proof/Machine/BusWrite.lean ====
section
/-! DEFINITION. The bus commands that are no reads (`43_host_and_reset_ops.md` R201 to R205). -/

namespace Sys2Proof.Machine

/-- `BUS.NOP` (R201): nothing; `bus_rdata` = 0. -/
def execBusNop (s : State) : Result := s.busIdle

/-- `WR.FULL` (R202): `MemWrite(0x0000, 1, wdata)`. -/
def execWrFull (wdata : Half) (s : State) : Result := s.busWrite 0x0000#16 wdata

/-- `WR.HALF` (R203): `HALF_DELAY <- wdata`. -/
def execWrHalf (wdata : Half) (s : State) : Result := s.busWrite 0x0001#16 wdata

/-- `WR.CTRL` (R204): `EN`, `STOP2`, `OVF_HALT` from `wdata[2:0]`, the rest ignored. -/
def execWrCtrl (wdata : Half) (s : State) : Result := s.busWrite 0x0002#16 wdata

/-- `WR.IGN` (R205): nothing, whatever the address and the data. -/
def execWrIgn (_addr _wdata : Half) (s : State) : Result := s.busIdle

end Sys2Proof.Machine
end

