-- ==== Sys2Proof/Machine/Idle.lean ====
section
/-! DEFINITION. The IDLE operations (`40_idle_and_start.md`). -/

namespace Sys2Proof.Machine

/-- `IDLE.START` (R132): begin a frame. `rx` is 0 here, since `fall` is 1. -/
def execIdleStart (s : State) : Result :=
  .next { s.samplePin false with
    seq := .sampling, shreg := 0, bitIdx := 0, stopCnt := 0
    timer := startLoad s.halfDelay s.fullDelay, frameValid := false }

/-- `IDLE.POLL` (R131): only the pin sampler. -/
def execIdlePoll (rx : Bool) (s : State) : Result := .next (s.samplePin rx)

end Sys2Proof.Machine
end

