-- ==== Sys2Proof/Machine/Reset.lean ====
section
/-! DEFINITION. The reset operation (`43_host_and_reset_ops.md` R200). -/

namespace Sys2Proof.Machine

/-- `RST`: every element at its reset value (`10_state.md` R46), no event, `bus_rdata` = 0. `BUF` is not written,
and "a model treats every `BUF[i]` as unspecified after `RST`": no entry is listed any more, and what the window
shows of each is a free value of its own, numbered by `bufEpoch` (U3). DESIGN CHOICE (log entry 3), safe. -/
def execRst (s : State) : Result :=
  .next { s with
    seq := .idle, timer := 0, bitIdx := 0, stopCnt := 0, shreg := 0, rxPrev := false
    frameValid := false, framingError := false, bufferFull := false
    count := 0, wptr := 0
    fullDelay := 0, halfDelay := 0, en := false, stop2 := false, ovfHalt := false
    buf := [], bufEpoch := s.bufEpoch + 1
    out := { busRdata := 0, frameDone := false, framingError := false, bufferFull := false } }

end Sys2Proof.Machine
end

