-- ==== Sys2Proof/Machine/Sampling.lean ====
section
/-! DEFINITION. The SAMPLING operations (`41_sampling.md`). -/

namespace Sys2Proof.Machine

/-- `SAMP.WAIT` (R150): `TIMER <- TIMER - 1`. -/
def execSampWait (rx : Bool) (s : State) : Result := .next { s.samplePin rx with timer := s.timer - 1 }

/-- `SAMP.BIT` (R151): OR the sampled bit in at position `BITIDX`. -/
def execSampBit (rx : Bool) (s : State) : Result :=
  .next { s.samplePin rx with
    shreg := s.shreg ||| dataBit rx s.bitIdx, bitIdx := s.bitIdx + 1, timer := delayLoad s.fullDelay }

/-- `SAMP.LAST` (R152): OR data bit 7 in and go to STOP_WAIT. -/
def execSampLast (rx : Bool) (s : State) : Result :=
  .next { s.samplePin rx with
    shreg := s.shreg ||| dataBit rx 7#3, bitIdx := 0, seq := .stopWait, stopCnt := 0
    timer := delayLoad s.fullDelay }

end Sys2Proof.Machine
end

