-- ==== Sys2Proof/Machine/Stop.lean ====
section
/-! DEFINITION. The STOP_WAIT operations (`42_stop_and_commit.md`). -/

namespace Sys2Proof.Machine

/-- `STOP.WAIT` (R170): `TIMER <- TIMER - 1`. -/
def execStopWait (rx : Bool) (s : State) : Result := .next { s.samplePin rx with timer := s.timer - 1 }

/-- `STOP.NEXT` (R171): take the stop-bit sample and wait one more full-bit delay. -/
def execStopNext (rx : Bool) (s : State) : Result :=
  .next { (s.samplePin rx).stopSample rx with stopCnt := 1, timer := delayLoad s.fullDelay }

/-- `STOP.DONE1` (R173): take the stop-bit sample and commit. -/
def execStopDone1 (rx : Bool) (s : State) : Result := ((s.samplePin rx).stopSample rx).commit

/-- `STOP.DONE2` (R174): commit; `rx` is sampled by the pin sampler only. -/
def execStopDone2 (rx : Bool) (s : State) : Result := (s.samplePin rx).commit

end Sys2Proof.Machine
end

