-- ==== Sys2Proof/Machine/Dispatch.lean ====
section
/-! DEFINITION. The meaning of each instruction on S[n]: a receiver operation makes the receiver's writes and the
events, a bus command the host's writes and `bus_rdata`. -/

namespace Sys2Proof.Machine

def exec (i : Instr) (s : State) : Host.Outcome State Fault Refusal :=
  match i with
  | .rst => Sys2Proof.Machine.execRst s
  | .idleStart => Sys2Proof.Machine.execIdleStart s
  | .idlePoll rx => Sys2Proof.Machine.execIdlePoll rx s
  | .sampWait rx => Sys2Proof.Machine.execSampWait rx s
  | .sampBit rx => Sys2Proof.Machine.execSampBit rx s
  | .sampLast rx => Sys2Proof.Machine.execSampLast rx s
  | .stopWait rx => Sys2Proof.Machine.execStopWait rx s
  | .stopNext rx => Sys2Proof.Machine.execStopNext rx s
  | .stopDone1 rx => Sys2Proof.Machine.execStopDone1 rx s
  | .stopDone2 rx => Sys2Proof.Machine.execStopDone2 rx s
  | .busNop => Sys2Proof.Machine.execBusNop s
  | .wrFull wdata => Sys2Proof.Machine.execWrFull wdata s
  | .wrHalf wdata => Sys2Proof.Machine.execWrHalf wdata s
  | .wrCtrl wdata => Sys2Proof.Machine.execWrCtrl wdata s
  | .wrIgn addr wdata => Sys2Proof.Machine.execWrIgn addr wdata s
  | .rdFull => Sys2Proof.Machine.execRdFull s
  | .rdHalf => Sys2Proof.Machine.execRdHalf s
  | .rdCtrl => Sys2Proof.Machine.execRdCtrl s
  | .rdStatus => Sys2Proof.Machine.execRdStatus s
  | .rdCount => Sys2Proof.Machine.execRdCount s
  | .rdWptr => Sys2Proof.Machine.execRdWptr s
  | .rdShreg => Sys2Proof.Machine.execRdShreg s
  | .rdTimerLo => Sys2Proof.Machine.execRdTimerLo s
  | .rdTimerHi => Sys2Proof.Machine.execRdTimerHi s
  | .rdCapacity => Sys2Proof.Machine.execRdCapacity s
  | .rdBuf index => Sys2Proof.Machine.execRdBuf index s
  | .rdRsvd addr => Sys2Proof.Machine.execRdRsvd addr s

end Sys2Proof.Machine
end

