-- ==== Sys2Proof/Machine/Tick.lean ====
section
/-! DEFINITION. One tick (`00_scope.md` R8, R9): where its inputs come from, how its operation and its bus command
are selected and run on the same S[n], and how an instruction is put where the next tick finds it. -/

namespace Sys2Proof.Machine

/-- The inputs of the `j`-th tick from now: the script's, or free where the script has ended
(`00_scope.md` R10). DESIGN CHOICE (log entry 4), safe. -/
def State.inputAt (s : State) (j : Nat) : Inputs :=
  match s.script[j]? with
  | some inp => inp
  | none => Inputs.ofWord (Config.freeInput (s.tickNo + j))

/-- The inputs of the next tick. -/
def State.input (s : State) : Inputs := s.inputAt 0

/-- The state once the inputs of the tick have been taken. -/
def State.consumed (s : State) : State := { s with script := s.script.tail, tickNo := s.tickNo + 1 }

/-- S[n+1] of a tick whose operation and command both ran on S[n]: the host-written registers and `bus_rdata` from
the command, everything else from the operation. The writers are disjoint, so no order is needed
(`00_scope.md` R8; `10_state.md` R52; `43_host_and_reset_ops.md` R220). DEDUCED (log entry 8), safe. -/
def joinTick (op cmd : Result) : Result :=
  match op, cmd with
  | .next a, .next b =>
    .next { a with
      fullDelay := b.fullDelay, halfDelay := b.halfDelay, en := b.en, stop2 := b.stop2, ovfHalt := b.ovfHalt
      out := { a.out with busRdata := b.out.busRdata } }
  | .next _, .fault e => .fault e
  | .next _, .refused e => .refused e
  | .fault e, _ => .fault e
  | .refused e, _ => .refused e

/-- One tick on S[n] and its inputs: the operation that the selector word selects and the command that the bus word
encodes; `RST` alone when it is selected (`30_encoding.md` R92, R96, R111; `10_state.md` R22). -/
def tick (inp : Inputs) (s : State) : Result :=
  match decodeT (selector s inp), decodeB inp.busWord with
  | .ok .rst, _ => exec .rst s
  | .ok op, .ok cmd => joinTick (exec op s) (exec cmd s)
  | .error e, _ => .refused (.noRow e)
  | .ok _, .error e => .refused (.noRow e)

/-- `s` with `inp` as the inputs of the next tick. -/
def State.withInput (s : State) (inp : Inputs) : State := { s with script := inp :: s.script.tail }

/-- `s` with a bus command presented at the next tick: `rst` = 0 and `rx` as at the last tick, so that no edge is
seen. -/
def State.withBusWord (s : State) (w : BWord) : State :=
  s.withInput
    { rst := false, rx := s.rxPrev, busValid := w.getLsbD 33, busWe := w.getLsbD 32, busAddr := bAddr w
      busWdata := bWdata w }

/-- The state and the inputs without a bus command at which the selector word selects what `w` selects, each element
left as it is where its bit already agrees: `rst` and `rx` are inputs, every other bit of T is a condition on S[n]
(`30_encoding.md` R91). IDLE.START needs `fall` = 1, so its `rx` is 0. A word of the reserved state code has no such
state and changes nothing. -/
def State.withSelector (s : State) (w : TWord) : State :=
  let place (seq : SeqState) : State :=
    let starts := seq = .idle ∧ w.getLsbD 8 ∧ w.getLsbD 7
    let rx := w.getLsbD 0 && !starts
    { s with
      seq := seq
      en := w.getLsbD 8
      ovfHalt := s.ovfHalt && !(w.getLsbD 8 && s.bufferFull)
      rxPrev := if rx then s.rxPrev else w.getLsbD 7
      timer := if s.texp = w.getLsbD 4 then s.timer else if w.getLsbD 4 then 1 else 2
      bitIdx := if s.last = w.getLsbD 3 then s.bitIdx else if w.getLsbD 3 then 7 else 0
      stopCnt := w.extractLsb' 2 1
      stop2 := w.getLsbD 1
      script :=
        { rst := false, rx := rx, busValid := false, busWe := false, busAddr := 0, busWdata := 0 } :: s.script.tail }
  if w.getLsbD 9 then
    s.withInput { rst := true, rx := w.getLsbD 0, busValid := false, busWe := false, busAddr := 0, busWdata := 0 }
  else if w.extractLsb' 5 2 = 0#2 then place .idle
  else if w.extractLsb' 5 2 = 1#2 then place .sampling
  else if w.extractLsb' 5 2 = 2#2 then place .stopWait
  else s

end Sys2Proof.Machine
end

