-- ==== Sys2Proof/Machine/Step.lean ====
section
/-! DEFINITION. One step of the machine is one tick. -/

namespace Sys2Proof.Machine

/-- One tick with the inputs that the script, or the free line and host, give it. -/
def step (s : State) : Host.Outcome State Fault Refusal := tick s.input s.consumed

/-- `s` with the instruction of a table word where the next tick selects its operation and decodes its command: a
T word (up to two bytes) in the state and inputs its bits describe, a B word on the bus (log entry 5). -/
def State.withFetchWord (s : State) (nbits w : Nat) : State :=
  if nbits ≤ 16 then s.withSelector (BitVec.ofNat 10 w) else s.withBusWord (BitVec.ofNat 34 w)

end Sys2Proof.Machine
end

