-- ==== Sys2Proof/Machine/Script.lean ====
section
/-! DEFINITION. The stimulus-script notation (`30_encoding.md` R107 to R109) and the wire frame (R101): how a test
bench or a transmitter drives the inputs of successive ticks. -/

namespace Sys2Proof.Machine

/-- The inputs of a tick at line level `rx` with no bus command. -/
def lineTick (rx : Bool) : Inputs :=
  { rst := false, rx := rx, busValid := false, busWe := false, busAddr := 0, busWdata := 0 }

/-- The ten bit times of byte `b` on the line: start bit LOW, data bits least significant first, then the level
`stop` (HIGH for a well-formed frame) (R101). -/
def wireLevels (b : Byte) (stop : Bool) : List Bool :=
  false :: (List.range 8).map (fun k => b.getLsbD k) ++ [stop]

/-- The level at every tick of a frame with a bit period of `P` ticks (R101, R109). -/
def wireTicks (b : Byte) (P : Nat) (stop : Bool) : List Bool :=
  (wireLevels b stop).flatMap fun level => List.replicate P level

/-- The names a script's `EXPECT` can use: every state element of `10_state.md` R46 (`CTRL.EN` is `CTRL_EN`, and so on),
and the words `CTRL` and `STATUS` (R109; R39, R43). -/
inductive Element where
  | STATE | TIMER | BITIDX | STOPCNT | SHREG | RX_PREV | FRAME_VALID | FRAMING_ERROR | BUFFER_FULL | COUNT | WPTR
  | BUF (i : Nat) | FULL_DELAY | HALF_DELAY | CTRL_EN | CTRL_STOP2 | CTRL_OVF_HALT | CTRL | STATUS
  deriving DecidableEq, Repr

/-- The value of an element; `none` for a buffer entry that holds no specified value. -/
def Element.value (s : State) : Element → Option Nat
  | .STATE => some s.seq.code.toNat
  | .TIMER => some s.timer.toNat
  | .BITIDX => some s.bitIdx.toNat
  | .STOPCNT => some s.stopCnt.toNat
  | .SHREG => some s.shreg.toNat
  | .RX_PREV => some s.rxPrev.toNat
  | .FRAME_VALID => some s.frameValid.toNat
  | .FRAMING_ERROR => some s.framingError.toNat
  | .BUFFER_FULL => some s.bufferFull.toNat
  | .COUNT => some s.count.toNat
  | .WPTR => some s.wptr.toNat
  | .BUF i => (s.buf.entry i).map BitVec.toNat
  | .FULL_DELAY => some s.fullDelay.toNat
  | .HALF_DELAY => some s.halfDelay.toNat
  | .CTRL_EN => some s.en.toNat
  | .CTRL_STOP2 => some s.stop2.toNat
  | .CTRL_OVF_HALT => some s.ovfHalt.toNat
  | .CTRL => some s.ctrlWord.toNat
  | .STATUS => some s.statusWord.toNat

/-- A statement of a script (R108, R109). -/
inductive Stmt where
  /-- `RESET`. -/
  | reset
  /-- `WR a, d`. -/
  | wr (a d : Half)
  /-- `RD a`. -/
  | rd (a : Half)
  /-- `RD a == v`. -/
  | rdIs (a v : Half)
  /-- `LINE bits`. -/
  | line (bits : List Bool)
  /-- `IDLE n`. -/
  | idle (n : Nat)
  /-- `BREAK n`. -/
  | lineBreak (n : Nat)
  /-- `FRAME b, P`. -/
  | frame (b : Byte) (P : Nat)
  /-- `FRAMEX b, P, t`. -/
  | frameX (b : Byte) (P : Nat) (t : Bool)
  /-- `CONFIG F, H, C`. -/
  | config (F H C : Half)
  /-- `EXPECT name == v`. -/
  | expect (name : Element) (v : Nat)
  deriving DecidableEq, Repr

/-- The levels that a statement drives on the line, for the statements that are `LINE`s (R108, R109). -/
def Stmt.lineBits : Stmt → List Bool
  | .line bits => bits
  | .idle n => List.replicate n true
  | .lineBreak n => List.replicate n false
  | .frame b P => wireTicks b P true
  | .frameX b P t => wireTicks b P t
  | .reset | .wr _ _ | .rd _ | .rdIs _ _ | .config _ _ _ | .expect _ _ => []

/-- The inputs of each tick of a statement, the line being at level `L` before it (R108, R109). -/
def Stmt.ticks (L : Bool) : Stmt → List Inputs
  | .reset => [{ lineTick L with rst := true }]
  | .wr a d => [{ lineTick L with busValid := true, busWe := true, busAddr := a, busWdata := d }]
  | .rd a => [{ lineTick L with busValid := true, busAddr := a }]
  | .rdIs a _ => [{ lineTick L with busValid := true, busAddr := a }]
  | .config F H C =>
    [ { lineTick L with busValid := true, busWe := true, busAddr := 0x0000#16, busWdata := F },
      { lineTick L with busValid := true, busWe := true, busAddr := 0x0001#16, busWdata := H },
      { lineTick L with busValid := true, busWe := true, busAddr := 0x0002#16, busWdata := C } ]
  | .expect _ _ => []
  | st => st.lineBits.map lineTick

/-- The line level after a statement: the last level it drove (R108). -/
def Stmt.levelAfter (L : Bool) (st : Stmt) : Bool := st.lineBits.getLast?.getD L

/-- The line level at the start of a script: HIGH (R108). -/
def levelAtStart : Bool := true

/-- The inputs of every tick of the statements of a script that are left when the line is at level `L` (R108). -/
def expandFrom (L : Bool) : List Stmt → List Inputs
  | [] => []
  | st :: rest => st.ticks L ++ expandFrom (st.levelAfter L) rest

/-- The inputs of every tick of a script (R108). -/
def expand (script : List Stmt) : List Inputs := expandFrom levelAtStart script

/-- What a statement asserts of the state after its ticks (R108, R109). -/
def Stmt.asserted (s : State) : Stmt → Bool
  | .rdIs _ v => s.out.busRdata == v
  | .expect name v => name.value s == some v
  | .reset | .wr _ _ | .rd _ | .line _ | .idle _ | .lineBreak _ | .frame _ _ | .frameX _ _ _ | .config _ _ _ => true

/-- Run the machine for the ticks of a list of inputs; `none` if it stops. -/
def runTicks (s : State) : List Inputs → Option State
  | [] => some s
  | inp :: rest =>
    match step (s.withInput inp) with
    | .next t => runTicks t rest
    | .fault _ => none
    | .refused _ => none

/-- Run the statements of a script that are left when the line is at level `L`: the state reached, `none` if an
assertion fails or the machine stops. -/
def runScriptFrom (L : Bool) (s : State) : List Stmt → Option State
  | [] => some s
  | st :: rest =>
    match runTicks s (st.ticks L) with
    | some t => if st.asserted t then runScriptFrom (st.levelAfter L) t rest else none
    | none => none

/-- Run a script (R108). -/
def runScript (s : State) (script : List Stmt) : Option State := runScriptFrom levelAtStart s script

end Sys2Proof.Machine
end

