-- ==== Sys2Proof/Safety.lean ====
section
/-! DEFINITION. The terms that statements about the machine use: what stays the same, the invariants of
`10_state.md` R47 and R50, and runs of several ticks. -/

namespace Sys2Proof.Machine

/-! ### What an instruction leaves unchanged -/

/-- The sequencing state and the assembly register (`10_state.md` R25 to R29). -/
structure SameFrame (s t : State) : Prop where
  seq : t.seq = s.seq
  timer : t.timer = s.timer
  bitIdx : t.bitIdx = s.bitIdx
  stopCnt : t.stopCnt = s.stopCnt
  shreg : t.shreg = s.shreg

/-- The three flags (R31 to R33). -/
structure SameFlags (s t : State) : Prop where
  frameValid : t.frameValid = s.frameValid
  framingError : t.framingError = s.framingError
  bufferFull : t.bufferFull = s.bufferFull

/-- Every byte of the buffer, as stored and as the window shows it (R36). -/
structure SameBuffer (s t : State) : Prop where
  entry : ∀ i, t.buf.entry i = s.buf.entry i
  byte : ∀ i, t.bufByte i = s.bufByte i

/-- The buffer and its bookkeeping (R34 to R36). -/
structure SameStore (s t : State) : Prop extends SameBuffer s t where
  count : t.count = s.count
  wptr : t.wptr = s.wptr

/-- The host-written registers (R37 to R39) and the parameter `CAPACITY`. -/
structure SameConfig (s t : State) : Prop where
  fullDelay : t.fullDelay = s.fullDelay
  halfDelay : t.halfDelay = s.halfDelay
  en : t.en = s.en
  stop2 : t.stop2 = s.stop2
  ovfHalt : t.ovfHalt = s.ovfHalt
  capacityTop : t.capacityTop = s.capacityTop

/-- The model's own fields but the outputs: the inputs to come, and what numbers the free values. -/
structure SameEnvironment (s t : State) : Prop where
  script : t.script = s.script
  tickNo : t.tickNo = s.tickNo
  bufEpoch : t.bufEpoch = s.bufEpoch

/-- Everything a receiver operation writes is as before (R52). -/
structure SameReceiver (s t : State) : Prop extends SameFrame s t, SameFlags s t, SameStore s t where
  rxPrev : t.rxPrev = s.rxPrev

/-- What the three event outputs of a tick are (R23, R100). -/
def EventsAre (t : State) (bufferFull framingError frameDone : Bool) : Prop :=
  t.out.bufferFull = bufferFull ∧ t.out.framingError = framingError ∧ t.out.frameDone = frameDone

/-- `BUF[WPTR] <- SHREG; WPTR <- (WPTR + 1) mod CAPACITY`, every other entry as before (`42_stop_and_commit.md`
R177). -/
structure StoresAtWptr (s t : State) : Prop where
  entry : t.buf.entry s.wptr.toNat = some s.shreg
  byte : t.bufByte s.wptr.toNat = s.shreg
  otherEntry : ∀ i, i ≠ s.wptr.toNat → t.buf.entry i = s.buf.entry i
  otherByte : ∀ i, i ≠ s.wptr.toNat → t.bufByte i = s.bufByte i
  wptr : t.wptr.toNat = (s.wptr.toNat + 1) % s.capacity

/-- The three outcomes of `Append(SHREG)` on the buffer, `WPTR`, `COUNT`, `BUFFER_FULL` and the event
`buffer_full`: store, overwrite, drop (R178). -/
def Appends (s t : State) : Prop :=
  if s.count.toNat < s.capacity then
    StoresAtWptr s t ∧ t.count.toNat = s.count.toNat + 1 ∧ t.bufferFull = s.bufferFull ∧ t.out.bufferFull = false
  else if s.ovfHalt = false then
    StoresAtWptr s t ∧ t.count = s.count ∧ t.bufferFull = true ∧ t.out.bufferFull = true
  else
    SameStore s t ∧ t.bufferFull = true ∧ t.out.bufferFull = true

/-- What a tick that is not RST leaves in the host-written registers: the written value, else the old one
(`20_memory.md` R66). -/
structure HostWritten (s t : State) (inp : Inputs) : Prop where
  fullDelay : t.fullDelay = if inp.busValid && inp.busWe && inp.busAddr == 0#16 then inp.busWdata else s.fullDelay
  halfDelay : t.halfDelay = if inp.busValid && inp.busWe && inp.busAddr == 1#16 then inp.busWdata else s.halfDelay
  en : t.en = if inp.busValid && inp.busWe && inp.busAddr == 2#16 then inp.busWdata.getLsbD 0 else s.en
  stop2 : t.stop2 = if inp.busValid && inp.busWe && inp.busAddr == 2#16 then inp.busWdata.getLsbD 1 else s.stop2
  ovfHalt : t.ovfHalt = if inp.busValid && inp.busWe && inp.busAddr == 2#16 then inp.busWdata.getLsbD 2 else s.ovfHalt
  capacityTop : t.capacityTop = s.capacityTop

/-! ### Invariants -/

/-- The buffer's invariant (`10_state.md` R47, 1 to 4 and 7), with the canonical form of the model's buffer: the
listed entries are exactly those below `COUNT`. -/
structure BufferInv (s : State) : Prop where
  count_le : s.count.toNat ≤ s.capacity
  wptr_lt : s.wptr.toNat < s.capacity
  filling : s.count.toNat < s.capacity → s.wptr = s.count ∧ s.bufferFull = false
  full : s.bufferFull = true → s.count.toNat = s.capacity
  canonical : s.buf.wf
  written : ∀ i, (s.buf.entry i).isSome = true ↔ i < s.count.toNat

/-- The sequencer's invariant: what R26, R27, R31 and R50 of `10_state.md` and R153 and R155 of `41_sampling.md`
say of the sequencing state between two ticks. -/
structure SequencerInv (s : State) : Prop where
  /-- `BITIDX` is 0 outside SAMPLING (R50; SAMP.LAST writes 0). -/
  bitIdx_outside : s.seq ≠ .sampling → s.bitIdx = 0
  /-- No stop delay has been completed while data bits are sampled (R27). -/
  stopCnt_sampling : s.seq = .sampling → s.stopCnt = 0
  /-- Bits not yet sampled are 0 (R153). -/
  shreg_unsampled : s.seq = .sampling → ∀ k, s.bitIdx.toNat ≤ k → s.shreg.getLsbD k = false
  /-- A frame that has not reached its stop-bit sample is not valid (R31). -/
  frameValid_before : s.seq = .sampling ∨ s.seq = .stopWait ∧ s.stopCnt = 0 → s.frameValid = false
  /-- In IDLE the wait has ended (R50). -/
  timer_idle : s.seq = .idle → s.timer.toNat ≤ 1
  /-- `TIMER` never holds more than the greatest sum of two delays (R155). -/
  timer_le : s.timer.toNat ≤ 131070

/-! ### Runs -/

/-- The result of `n` ticks, with whatever inputs they get. -/
def after (n : Nat) (s : State) : Result := Host.Core.run Sys2Proof.core n s

/-- No reset in the next `n` ticks. -/
def NoReset (s : State) (n : Nat) : Prop := ∀ j < n, (s.inputAt j).rst = false

/-- The host writes nothing in the next `n` ticks. -/
def NoHostWrite (s : State) (n : Nat) : Prop :=
  ∀ j < n, (s.inputAt j).busValid = true → (s.inputAt j).busWe = false

/-- The host writes neither delay in the next `n` ticks (`30_encoding.md` R102, "both unchanged during the frame"). -/
def KeepsDelays (s : State) (n : Nat) : Prop :=
  ∀ j < n, (s.inputAt j).busValid = true → (s.inputAt j).busWe = true →
    (s.inputAt j).busAddr ≠ 0#16 ∧ (s.inputAt j).busAddr ≠ 1#16

/-- The next tick is the tick at which a frame starts: `IDLE.START` is selected (`40_idle_and_start.md` R132). -/
structure StartsFrame (s : State) : Prop where
  idle : s.seq = .idle
  startOk : s.startOk = true
  rxPrev : s.rxPrev = true
  low : (s.input).rx = false

/-- The length in ticks of a wait loaded with `load`: max(load, 1) (`41_sampling.md` R156). -/
def waitTicks (load : Nat) : Nat := max load 1

/-- The tick, counted from the start tick, at which data bit `k` is sampled (`41_sampling.md` R158). -/
def sampleTick (half full : Half) (k : Nat) : Nat :=
  waitTicks (half.toNat + full.toNat) + k * waitTicks full.toNat

end Sys2Proof.Machine
end

