-- ==== Sys2Proof/Certificates/Slice0/Obligations.lean ====
section
/-! DEFINITION. The statements about the machine. Each docstring names the spec's passage it formalises; hypotheses
have their witnesses in `Sys2Proof/Tests/Slice0.lean`. -/

open Sys2Proof Sys2Proof.Machine

/-! ### Encodings -/

/-- No operand bit of a well-formed instruction is lost by its encoding (`30_encoding.md` sections 2, 3, 4). -/
def Obligations.DecodeOfEncodeIsIdentity : Prop :=
  ∀ i : Instr, i.wellFormed = true → decode (encode i) = .ok i

/-- The operation table is total but for the reserved state code (`30_encoding.md` section 2). -/
def Obligations.SelectorWordDecodesUnlessStateReserved : Prop :=
  ∀ w : TWord, (∃ i, decodeT w = .ok i) ↔ (w.getLsbD 9 = true ∨ w.extractLsb' 5 2 ≠ 3#2)

/-- Only rows 2 and 3 of the operation table overlap (`30_encoding.md` section 2). -/
def Obligations.OnlyStartAndPollRowsOverlap : Prop :=
  ∀ w : TWord, ∀ a ∈ tRows, ∀ b ∈ tRows, a.hits w = true → b.hits w = true →
    a.mnemonic = b.mnemonic ∨ (a.mnemonic = "IDLE.START" ∧ b.mnemonic = "IDLE.POLL") ∨
      (a.mnemonic = "IDLE.POLL" ∧ b.mnemonic = "IDLE.START")

/-- The bus table is total, and gives a command with legal operands (`30_encoding.md` section 3). -/
def Obligations.EveryBusWordIsAWellFormedCommand : Prop :=
  ∀ w : BWord, ∃ i, decodeB w = .ok i ∧ i.isOperation = false ∧ i.wellFormed = true

/-- Words printed in `95_test_vectors.md` section 2.6 decode to the rows printed there. -/
def Obligations.PrintedWordsDecodeAsPrinted : Prop :=
  decodeT 0x3FF#10 = .ok .rst ∧ decodeT 0x190#10 = .ok .idleStart ∧ decodeT 0x110#10 = .ok (.idlePoll false) ∧
  decodeT 0x02F#10 = .ok (.sampWait true) ∧ decodeT 0x031#10 = .ok (.sampBit true) ∧
  decodeT 0x1C0#10 = .ok (.stopWait false) ∧ decodeT 0x060#10 = .error .reservedState ∧
  decodeB 0x300020001#34 = .ok (.wrCtrl 1#16) ∧ decodeB 0x3800000FF#34 = .ok (.wrIgn 0x8000#16 0xFF#16) ∧
  decodeB 0x20003ABCD#34 = .ok .rdStatus ∧ decodeB 0x2FFFF0000#34 = .ok (.rdBuf 0x7FFF#15) ∧
  decodeB 0x2000A0000#34 = .ok (.rdRsvd 0x000A#16)

/-- Format I holds the inputs of a tick and nothing else (`30_encoding.md` R107). -/
def Obligations.FormatWordAndTickInputsCorrespond : Prop :=
  (∀ inp : Inputs, Inputs.ofWord inp.toWord = inp) ∧ (∀ w : IWord, (Inputs.ofWord w).toWord = w)

/-! ### Which operation a tick executes -/

/-- In IDLE a frame starts exactly at an enabled, not halted HIGH-then-LOW, and every other tick polls
(`40_idle_and_start.md` sections 2, 3; `30_encoding.md` section 2, rows 2 and 3). -/
def Obligations.StartSelectedExactlyOnAllowedFall : Prop :=
  ∀ (s : State) (inp : Inputs),
    (decodeT (selector s inp) = .ok .idleStart ↔
      inp.rst = false ∧ s.seq = .idle ∧ s.en = true ∧ ¬ (s.bufferFull = true ∧ s.ovfHalt = true) ∧
        s.rxPrev = true ∧ inp.rx = false) ∧
    (inp.rst = false → s.seq = .idle →
      s.en = false ∨ (s.bufferFull = true ∧ s.ovfHalt = true) ∨ s.rxPrev = false ∨ inp.rx = true →
      decodeT (selector s inp) = .ok (.idlePoll inp.rx))

/-- Outside IDLE the operation is decided by `TIMER`, `BITIDX`, `STOPCNT` and `STOP2` alone, whatever the line does
(`30_encoding.md` section 2). -/
def Obligations.SelectionOutsideIdle : Prop :=
  ∀ (s : State) (inp : Inputs), inp.rst = false →
    (s.seq = .sampling → decodeT (selector s inp) = .ok
      (if 2 ≤ s.timer.toNat then .sampWait inp.rx
       else if s.bitIdx.toNat = 7 then .sampLast inp.rx else .sampBit inp.rx)) ∧
    (s.seq = .stopWait → decodeT (selector s inp) = .ok
      (if 2 ≤ s.timer.toNat then .stopWait inp.rx
       else if s.stopCnt.toNat = 1 then .stopDone2 inp.rx
       else if s.stop2 = true then .stopNext inp.rx else .stopDone1 inp.rx))

/-! ### The step -/

/-- One step executes the selected operation and the decoded command on the same S[n]: the command's writes are the
host's registers and the read data, all else is the operation's; `RST` runs alone. The step itself only takes the
tick's inputs (`State.consumed`). (`00_scope.md` section 5; log entry 8.) -/
def Obligations.StepRunsDecodedOperationAndCommand : Prop :=
  ∀ (s : State) (op cmd : Instr),
    decodeT (selector s.consumed s.input) = .ok op → decodeB s.input.busWord = .ok cmd →
    (op = .rst → step s = exec .rst s.consumed) ∧
    (∀ a b, op ≠ .rst → exec op s.consumed = .next a → exec cmd s.consumed = .next b →
      step s = .next { a with
        fullDelay := b.fullDelay, halfDelay := b.halfDelay, en := b.en, stop2 := b.stop2, ovfHalt := b.ovfHalt
        out := { a.out with busRdata := b.out.busRdata } }) ∧
    (∀ e, op ≠ .rst → exec op s.consumed = .fault e → step s = .fault e)

/-- A tick never stops in a state that satisfies the buffer's invariant (`00_scope.md` section 5: the step is
total). -/
def Obligations.StepNeverStopsUnderBufferInv : Prop :=
  ∀ s : State, BufferInv s → ∃ t, step s = .next t

/-- Every tick keeps the buffer's invariant (`10_state.md` section 10). -/
def Obligations.StepKeepsBufferInv : Prop :=
  ∀ s t : State, BufferInv s → step s = .next t → BufferInv t

/-- The reset state has the buffer's invariant, for every `CAPACITY` (`10_state.md` section 10). -/
def Obligations.ResetHasBufferInv : Prop :=
  BufferInv State.reset ∧ ∀ top, BufferInv (State.resetWith top)

/-- From any state whatever, an RST tick and any ticks after it run without a stop and end in a state with the seven
properties of `10_state.md` R47; that an entry "has been written" is that the model lists its byte (log entry 3). -/
def Obligations.InvariantsHoldFromAnyResetOn : Prop :=
  ∀ (s : State) (n : Nat), s.input.rst = true → ∃ t, after (n + 1) s = .next t ∧
    t.count.toNat ≤ t.capacity ∧ t.wptr.toNat < t.capacity ∧
    (t.count.toNat < t.capacity → t.wptr = t.count ∧ t.bufferFull = false) ∧
    (t.bufferFull = true → t.count.toNat = t.capacity) ∧
    (∀ u, t.input.rst = false → step t = .next u → t.count.toNat ≤ u.count.toNat) ∧
    t.seq ∈ [SeqState.idle, .sampling, .stopWait] ∧
    (∀ i < t.count.toNat, (t.buf.entry i).isSome = true)

/-- Every tick keeps the sequencer's invariant (`10_state.md` section 10; `41_sampling.md` section 2). -/
def Obligations.StepKeepsSequencerInv : Prop :=
  ∀ s t : State, SequencerInv s → step s = .next t → SequencerInv t

/-- The reset state has the sequencer's invariant (`10_state.md` section 9). -/
def Obligations.ResetHasSequencerInv : Prop :=
  SequencerInv State.reset ∧ ∀ top, SequencerInv (State.resetWith top)

/-- `COUNT` never decreases but by RST, and grows by one at most (`10_state.md` section 5). -/
def Obligations.CountNeverDecreasesButByReset : Prop :=
  ∀ s t : State, s.input.rst = false → step s = .next t →
    s.count.toNat ≤ t.count.toNat ∧ t.count.toNat ≤ s.count.toNat + 1

/-- A sticky flag is set in the very tick of its event, by nothing else, and cleared by RST only
(`60_exceptions.md` sections 1, 4). -/
def Obligations.StickyFlagsFollowTheirEventsUntilReset : Prop :=
  ∀ s t : State, step s = .next t →
    (s.input.rst = true → t.framingError = false ∧ t.bufferFull = false) ∧
    (s.input.rst = false →
      t.framingError = (s.framingError || t.out.framingError) ∧
      t.bufferFull = (s.bufferFull || t.out.bufferFull))

/-- The four writes of `STATE`, by the operations named, and no other (`42_stop_and_commit.md` R176). -/
def Obligations.SequencerMovesOnlyByItsFourTransfers : Prop :=
  ∀ (s t : State) (op : Instr), decodeT (selector s.consumed s.input) = .ok op → step s = .next t →
    (op = .rst → t.seq = .idle) ∧
    (op = .idleStart → s.seq = .idle ∧ t.seq = .sampling) ∧
    (∀ rx, op = .sampLast rx → s.seq = .sampling ∧ t.seq = .stopWait) ∧
    (∀ rx, op = .stopDone1 rx ∨ op = .stopDone2 rx → s.seq = .stopWait ∧ t.seq = .idle) ∧
    (t.seq ≠ s.seq → op = .rst ∨ op = .idleStart ∨
      ∃ rx, op = .sampLast rx ∨ op = .stopDone1 rx ∨ op = .stopDone2 rx)

/-- `TIMER` in a tick that is not RST: kept, counted down only from 2 or more, or loaded with the exact sum or the
full-bit delay; it becomes 0 only by a load of 0 (`41_sampling.md` R155). -/
def Obligations.TimerNeverWraps : Prop :=
  ∀ s t : State, step s = .next t →
    (s.input.rst = true → t.timer.toNat = 0) ∧
    (s.input.rst = false →
      (t.timer.toNat = s.timer.toNat ∨
        (2 ≤ s.timer.toNat ∧ t.timer.toNat = s.timer.toNat - 1 ∧ 1 ≤ t.timer.toNat) ∨
        (s.seq = .idle ∧ t.timer.toNat = s.halfDelay.toNat + s.fullDelay.toNat ∧ t.timer.toNat ≤ 131070) ∨
        (s.seq ≠ .idle ∧ t.timer.toNat = s.fullDelay.toNat)) ∧
      (t.timer.toNat = 0 → s.timer.toNat = 0 ∨ s.fullDelay.toNat = 0))

/-- Pin sampler: `RX_PREV` is the pin's level at the last tick, 0 after RST (`40_idle_and_start.md` R130). -/
def Obligations.PinSamplerFollowsRxEveryTick : Prop :=
  ∀ s t : State, step s = .next t →
    t.rxPrev = if s.input.rst then false else s.input.rx

/-- The three event outputs are functions of the operation executed at the tick (`10_state.md` R23). -/
def Obligations.EventsFollowExecutedOperation : Prop :=
  ∀ (s t : State) (op : Instr), BufferInv s → decodeT (selector s.consumed s.input) = .ok op → step s = .next t →
    (t.out.frameDone = true ↔ ∃ rx, op = .stopDone1 rx ∨ op = .stopDone2 rx) ∧
    (t.out.framingError = true ↔ (∃ rx, op = .stopNext rx ∨ op = .stopDone1 rx) ∧ s.input.rx = false) ∧
    (t.out.bufferFull = true ↔ (∃ rx, op = .stopDone1 rx ∨ op = .stopDone2 rx) ∧ s.count.toNat = s.capacity)

/-- A read returns the value of S[n], whatever the operation of the same tick writes; `bus_rdata` is 0 for a tick
with no read (`20_memory.md` section 7; `43_host_and_reset_ops.md` section 2). -/
def Obligations.ReadDataIsOfTheStateBeforeTheTick : Prop :=
  ∀ s t : State, s.input.rst = false → step s = .next t →
    t.out.busRdata =
      if s.input.busValid && !s.input.busWe then s.memRead s.input.busAddr else 0

/-- The host's registers after a tick are the written values, else the old ones, whatever the operation of the same
tick (`20_memory.md` section 2; `10_state.md` section 10). -/
def Obligations.HostRegistersTakeOnlyBusWrites : Prop :=
  ∀ s t : State, s.input.rst = false → step s = .next t → HostWritten s t s.input

/-- A `TIMER` load uses the delay of S[n], also when the bus writes the delay at the same tick
(`43_host_and_reset_ops.md` section 3). -/
def Obligations.TimerLoadsTheDelayBeforeTheTick : Prop :=
  ∀ s t : State, s.input.rst = false → s.seq = .sampling → s.timer.toNat ≤ 1 → step s = .next t →
    t.timer.toNat = s.fullDelay.toNat

/-- A halted receiver starts no frame and keeps its buffer, until RST or a write of `OVF_HALT`
(`42_stop_and_commit.md` section 2). -/
def Obligations.HaltedReceiverStartsNothing : Prop :=
  ∀ s : State, s.input.rst = false → s.seq = .idle → s.bufferFull = true → s.ovfHalt = true →
    ∃ t, step s = .next t ∧ SameFrame s t ∧ SameFlags s t ∧ SameStore s t ∧
      (s.input.busAddr ≠ 2#16 → t.ovfHalt = true)

/-- What the buffer holds never reaches any other state: only the read data can differ
(`93_implementation_defined.md` section 1, U3). -/
def Obligations.BufferContentReachesOnlyReadData : Prop :=
  ∀ (s t : State) (m : Memory) (e : Nat), step s = .next t →
    ∃ t', step { s with buf := m, bufEpoch := e } = .next t' ∧
      t' = { t with buf := t'.buf, bufEpoch := t'.bufEpoch, out := { t.out with busRdata := t'.out.busRdata } }

/-- The bus command of a tick never reaches what the receiver does in that tick (`43_host_and_reset_ops.md`
section 3; `10_state.md` section 10). -/
def Obligations.BusCommandNeverReachesTheReceiverInItsTick : Prop :=
  ∀ (s t : State) (inp inp' : Inputs), inp'.rst = inp.rst → inp'.rx = inp.rx → tick inp s = .next t →
    ∃ t', tick inp' s = .next t' ∧ SameReceiver t t' ∧ t'.out.events = t.out.events ∧
      t'.capacityTop = t.capacityTop ∧ SameEnvironment t t'

/-! ### Reset -/

/-- A tick with `rst` = 1 leaves the reset table, whatever else is presented, and no buffer entry with a specified
value; the parameter `CAPACITY` stays. (`43_host_and_reset_ops.md` section 1; `10_state.md` section 9. That no entry
is listed any more is the model's form of "unspecified", log entry 3.) -/
def Obligations.ResetTickLeavesTheResetTable : Prop :=
  ∀ s : State, s.input.rst = true → ∃ t, step s = .next t ∧
    t = { State.resetWith s.capacityTop with
            script := s.script.tail, tickNo := s.tickNo + 1, bufEpoch := s.bufEpoch + 1 } ∧
    ∀ i, t.buf.entry i = none

/-- `rst` = 1 selects RST whatever else is presented; the bus command of that tick is ignored (`10_state.md` R22). -/
def Obligations.ResetTickIgnoresEverythingElse : Prop :=
  ∀ (s : State) (inp : Inputs), inp.rst = true →
    decodeT (selector s inp) = .ok .rst ∧ tick inp s = exec .rst s ∧
    (∃ t, tick inp s = .next t ∧ t.out.busRdata = 0 ∧ t.fullDelay = 0 ∧ t.halfDelay = 0 ∧ t.ctrlWord = 0) ∧
    ∀ inp', inp'.rst = true → tick inp' s = tick inp s

/-- `RST` completes from every state with every element at its reset value and no output asserted
(`10_state.md` section 9; the buffer: log entry 3). -/
def Obligations.RstGivesEveryElementItsResetValue : Prop :=
  ∀ s : State, ∃ t, exec .rst s = .next t ∧
    t.seq = .idle ∧ t.timer = 0 ∧ t.bitIdx = 0 ∧ t.stopCnt = 0 ∧ t.shreg = 0 ∧ t.rxPrev = false ∧
    t.frameValid = false ∧ t.framingError = false ∧ t.bufferFull = false ∧ t.count = 0 ∧ t.wptr = 0 ∧
    t.fullDelay = 0 ∧ t.halfDelay = 0 ∧ t.en = false ∧ t.stop2 = false ∧ t.ovfHalt = false ∧
    t.capacityTop = s.capacityTop ∧ (∀ i, t.bufByte i = Config.freeByte (s.bufEpoch + 1) i) ∧
    EventsAre t false false false ∧ t.out.busRdata = 0 ∧ t.script = s.script ∧ t.tickNo = s.tickNo

/-! ### The receiver operations -/

/-- `IDLE.START` completes and begins a frame; the load of `TIMER` is the exact sum of the two delays
(`40_idle_and_start.md` section 2). -/
def Obligations.IdleStartBeginsAFrame : Prop :=
  ∀ s : State, ∃ t, exec .idleStart s = .next t ∧
    t.seq = .sampling ∧ t.shreg = 0 ∧ t.bitIdx = 0 ∧ t.stopCnt = 0 ∧
    t.timer.toNat = s.halfDelay.toNat + s.fullDelay.toNat ∧ t.frameValid = false ∧ t.rxPrev = false ∧
    t.framingError = s.framingError ∧ t.bufferFull = s.bufferFull ∧ EventsAre t false false false ∧
    t.out.busRdata = s.out.busRdata ∧ SameStore s t ∧ SameConfig s t ∧ SameEnvironment s t

/-- `IDLE.POLL` completes and only samples the pin (`40_idle_and_start.md` section 2). -/
def Obligations.IdlePollOnlySamplesThePin : Prop :=
  ∀ (s : State) (rx : Bool), ∃ t, exec (.idlePoll rx) s = .next t ∧
    t.rxPrev = rx ∧ SameFrame s t ∧ SameFlags s t ∧ SameStore s t ∧ SameConfig s t ∧ SameEnvironment s t ∧
    EventsAre t false false false ∧ t.out.busRdata = s.out.busRdata

/-- `SAMP.WAIT` and `STOP.WAIT` complete and count `TIMER` down by one, never below 1 (`41_sampling.md` section 1;
`42_stop_and_commit.md` section 1). -/
def Obligations.WaitOperationsCountDown : Prop :=
  ∀ (s : State) (rx : Bool), 2 ≤ s.timer.toNat → ∀ op ∈ [Instr.sampWait rx, Instr.stopWait rx],
    ∃ t, exec op s = .next t ∧ t.timer.toNat + 1 = s.timer.toNat ∧ 1 ≤ t.timer.toNat ∧
      t.seq = s.seq ∧ t.bitIdx = s.bitIdx ∧ t.stopCnt = s.stopCnt ∧ t.shreg = s.shreg ∧ t.rxPrev = rx ∧
      SameFlags s t ∧ SameStore s t ∧ SameConfig s t ∧ SameEnvironment s t ∧
      EventsAre t false false false ∧ t.out.busRdata = s.out.busRdata

/-- `SAMP.BIT` completes and ORs the sampled bit in at position `BITIDX`, no other bit (`41_sampling.md`
sections 1, 2). -/
def Obligations.SampBitOrsInOneBit : Prop :=
  ∀ (s : State) (rx : Bool), ∃ t, exec (.sampBit rx) s = .next t ∧
    (∀ k, t.shreg.getLsbD k = (s.shreg.getLsbD k || (rx && decide (k = s.bitIdx.toNat)))) ∧
    t.bitIdx.toNat = (s.bitIdx.toNat + 1) % 8 ∧ t.timer.toNat = s.fullDelay.toNat ∧ t.seq = s.seq ∧
    t.stopCnt = s.stopCnt ∧ t.rxPrev = rx ∧ SameFlags s t ∧ SameStore s t ∧ SameConfig s t ∧
    SameEnvironment s t ∧ EventsAre t false false false ∧ t.out.busRdata = s.out.busRdata

/-- `SAMP.LAST` completes, ORs data bit 7 in and goes to STOP_WAIT (`41_sampling.md` section 1). -/
def Obligations.SampLastGoesToStopWait : Prop :=
  ∀ (s : State) (rx : Bool), ∃ t, exec (.sampLast rx) s = .next t ∧
    (∀ k, t.shreg.getLsbD k = (s.shreg.getLsbD k || (rx && decide (k = 7)))) ∧
    t.bitIdx = 0 ∧ t.seq = .stopWait ∧ t.stopCnt = 0 ∧ t.timer.toNat = s.fullDelay.toNat ∧ t.rxPrev = rx ∧
    SameFlags s t ∧ SameStore s t ∧ SameConfig s t ∧ SameEnvironment s t ∧
    EventsAre t false false false ∧ t.out.busRdata = s.out.busRdata

/-- `STOP.NEXT` completes, takes the stop-bit sample (LOW raises FramingError) and waits one more full-bit delay; it
appends nothing (`42_stop_and_commit.md` section 1). -/
def Obligations.StopNextTakesTheStopSample : Prop :=
  ∀ (s : State) (rx : Bool), ∃ t, exec (.stopNext rx) s = .next t ∧
    t.frameValid = rx ∧ (t.framingError = true ↔ s.framingError = true ∨ rx = false) ∧
    t.bufferFull = s.bufferFull ∧ t.stopCnt = 1 ∧ t.timer.toNat = s.fullDelay.toNat ∧ t.seq = s.seq ∧
    t.bitIdx = s.bitIdx ∧ t.shreg = s.shreg ∧ t.rxPrev = rx ∧ SameStore s t ∧ SameConfig s t ∧
    SameEnvironment s t ∧ EventsAre t false (!rx) false ∧ t.out.busRdata = s.out.busRdata

/-- `STOP.DONE1` completes while `WPTR` is an index of the buffer: it takes the stop-bit sample, appends `SHREG`
whether the sample was HIGH or LOW, and returns to IDLE (`42_stop_and_commit.md` sections 1, 2). -/
def Obligations.StopDone1SamplesAndCommits : Prop :=
  ∀ (s : State) (rx : Bool), s.wptr.toNat < s.capacity → ∃ t, exec (.stopDone1 rx) s = .next t ∧
    Appends s t ∧ t.seq = .idle ∧ t.frameValid = rx ∧
    (t.framingError = true ↔ s.framingError = true ∨ rx = false) ∧ t.rxPrev = rx ∧ t.timer = s.timer ∧
    t.bitIdx = s.bitIdx ∧ t.stopCnt = s.stopCnt ∧ t.shreg = s.shreg ∧ SameConfig s t ∧ SameEnvironment s t ∧
    t.out.frameDone = true ∧ t.out.framingError = !rx ∧ t.out.busRdata = s.out.busRdata

/-- `STOP.DONE2` completes while `WPTR` is an index of the buffer: it appends `SHREG` and returns to IDLE; the line is
not sampled for validity (`42_stop_and_commit.md` sections 1, 2). -/
def Obligations.StopDone2Commits : Prop :=
  ∀ (s : State) (rx : Bool), s.wptr.toNat < s.capacity → ∃ t, exec (.stopDone2 rx) s = .next t ∧
    Appends s t ∧ t.seq = .idle ∧ t.frameValid = s.frameValid ∧ t.framingError = s.framingError ∧ t.rxPrev = rx ∧
    t.timer = s.timer ∧ t.bitIdx = s.bitIdx ∧ t.stopCnt = s.stopCnt ∧ t.shreg = s.shreg ∧ SameConfig s t ∧
    SameEnvironment s t ∧ t.out.frameDone = true ∧ t.out.framingError = false ∧
    t.out.busRdata = s.out.busRdata

/-- The model's choice (log entry 9): a commit faults exactly when it would store at an index that is no entry of the
buffer. The spec demands that no write be out of bounds (`42_stop_and_commit.md` section 2). -/
def Obligations.CommitFaultsExactlyOutsideTheBuffer : Prop :=
  ∀ (s : State) (rx : Bool), ∀ op ∈ [Instr.stopDone1 rx, Instr.stopDone2 rx],
    (exec op s = .fault .bufferIndexOutOfRange ↔
      s.capacity ≤ s.wptr.toNat ∧ (s.count.toNat < s.capacity ∨ s.ovfHalt = false))

/-! ### The bus commands -/

/-- `WR.FULL`, `WR.HALF` and `WR.CTRL` complete in every state and write their register only
(`43_host_and_reset_ops.md` section 2). -/
def Obligations.WriteCommandsWriteTheirRegisterOnly : Prop :=
  ∀ (s : State) (d : Half),
    (exec (.wrFull d) s = .next { s with fullDelay := d, out := { s.out with busRdata := 0 } }) ∧
    (exec (.wrHalf d) s = .next { s with halfDelay := d, out := { s.out with busRdata := 0 } }) ∧
    (∃ t, exec (.wrCtrl d) s = .next t ∧ t.ctrlWord = d &&& 7#16 ∧ t.fullDelay = s.fullDelay ∧
      t.halfDelay = s.halfDelay ∧ t.capacityTop = s.capacityTop ∧ SameReceiver s t ∧ SameEnvironment s t ∧
      t.out = { s.out with busRdata := 0 })

/-- `BUS.NOP`, a write to any other address and a reserved read complete in every state and change nothing;
`bus_rdata` is 0 (`43_host_and_reset_ops.md` section 2). -/
def Obligations.OtherCommandsChangeNothing : Prop :=
  ∀ (s : State) (a d : Half), ∀ cmd ∈ [Instr.busNop, Instr.wrIgn a d, Instr.rdRsvd a],
    exec cmd s = .next { s with out := { s.out with busRdata := 0 } }

/-- Every register read completes in every state, changes nothing but `bus_rdata`, and returns the number its
register or view holds (`43_host_and_reset_ops.md` section 2; `10_state.md` sections 6, 7). -/
def Obligations.ReadCommandsReturnTheirRegister : Prop :=
  ∀ (s : State), ∀ p ∈ [
      (Instr.rdFull, s.fullDelay.toNat),
      (Instr.rdHalf, s.halfDelay.toNat),
      (Instr.rdCtrl, s.en.toNat + 2 * s.stop2.toNat + 4 * s.ovfHalt.toNat),
      (Instr.rdStatus, s.seq.code.toNat + 4 * s.frameValid.toNat + 8 * s.framingError.toNat
        + 16 * s.bufferFull.toNat + 32 * s.rxPrev.toNat + 64 * s.stopCnt.toNat + 128 * s.bitIdx.toNat),
      (Instr.rdCount, s.count.toNat),
      (Instr.rdWptr, s.wptr.toNat),
      (Instr.rdShreg, s.shreg.toNat),
      (Instr.rdTimerLo, s.timer.toNat % 65536),
      (Instr.rdTimerHi, s.timer.toNat / 65536),
      (Instr.rdCapacity, s.capacity)],
    ∃ v : Half, v.toNat = p.2 ∧ exec p.1 s = .next { s with out := { s.out with busRdata := v } }

/-- `RD.BUF` completes in every state and changes nothing but `bus_rdata`: the byte in bits 7:0 and zeros above for an
index below `CAPACITY` (the byte stored since the last RST where there is one), 0 at or beyond it
(`43_host_and_reset_ops.md` section 2; `20_memory.md` section 1). -/
def Obligations.RdBufReadsTheWindow : Prop :=
  ∀ (s : State) (i : BitVec 15), ∃ v : Half,
    exec (.rdBuf i) s = .next { s with out := { s.out with busRdata := v } } ∧
    (i.toNat < s.capacity → v.toNat < 256 ∧ ∀ b, s.buf.entry i.toNat = some b → v.toNat = b.toNat) ∧
    (s.capacity ≤ i.toNat → v = 0)

/-- A written control register reads back at a later tick with the reserved bits 0, and the delays read back whole
(`20_memory.md` section 7; `95_test_vectors.md` H6). -/
def Obligations.WrittenRegistersReadBack : Prop :=
  ∀ (s t u : State) (d : Half),
    (exec (.wrCtrl d) s = .next t → exec .rdCtrl t = .next u → u.out.busRdata = d &&& 7#16) ∧
    (exec (.wrFull d) s = .next t → exec .rdFull t = .next u → u.out.busRdata = d) ∧
    (exec (.wrHalf d) s = .next t → exec .rdHalf t = .next u → u.out.busRdata = d)

/-- A write to an address other than the three, and a read of an address not listed, are legal; no command faults;
reserved `CTRL` bits read 0 and ignore writes (`30_encoding.md` R103). -/
def Obligations.UnlistedAddressesAndReservedBitsAreHarmless : Prop :=
  (∀ (s : State) (a d : Half), a ≠ 0#16 → a ≠ 1#16 → a ≠ 2#16 →
    decodeB (bWord true true a d) = .ok (.wrIgn a d) ∧
    exec (.wrIgn a d) s = .next { s with out := { s.out with busRdata := 0 } }) ∧
  (∀ (s : State) (a d : Half), (0x000A ≤ a.toNat ∧ a.toNat ≤ 0x7FFF) ∨ 0x8000 + s.capacity ≤ a.toNat →
    ∃ i, decodeB (bWord true false a d) = .ok i ∧
      exec i s = .next { s with out := { s.out with busRdata := 0 } }) ∧
  (∀ (s : State) (w : BWord) (i : Instr), decodeB w = .ok i → ∃ t, exec i s = .next t) ∧
  (∀ (s t : State), exec .rdCtrl s = .next t → t.out.busRdata.toNat < 8) ∧
  (∀ (s : State) (d : Half), exec (.wrCtrl d) s = exec (.wrCtrl (d &&& 7#16)) s)

/-- Writers are disjoint: an operation other than RST leaves the host's registers and the read data, a command leaves
everything the receiver writes and the events (`10_state.md` section 10). -/
def Obligations.OperationsAndCommandsWriteDisjointState : Prop :=
  ∀ (i : Instr) (s t : State), exec i s = .next t →
    (i.isOperation = true → i ≠ .rst → SameConfig s t ∧ t.out.busRdata = s.out.busRdata ∧ SameEnvironment s t) ∧
    (i.isOperation = false → SameReceiver s t ∧ t.out.events = s.out.events ∧ t.capacityTop = s.capacityTop ∧
      SameEnvironment s t)

/-! ### The byte buffer -/

/-- A stored entry reads back and no other entry changes (`20_memory.md` section 1). -/
def Obligations.StoredEntryReadsBackAndOthersStay : Prop :=
  ∀ (m : Memory) (i j : Nat) (b : Byte), (m.store i b).entry j = if j = i then some b else m.entry j

/-! ### Waits and frames -/

/-- A wait loaded with N ends max(N, 1) ticks after its load: until then only `TIMER` and the pin sampler move,
whatever the line and the host do (`41_sampling.md` R156). `s` is the state just after the load. -/
def Obligations.WaitLastsExactlyItsLoad : Prop :=
  ∀ (s : State) (k : Nat), s.seq ≠ .idle → NoReset s k → k < waitTicks s.timer.toNat →
    ∃ t, after k s = .next t ∧ t.timer.toNat = s.timer.toNat - k ∧ t.seq = s.seq ∧ t.bitIdx = s.bitIdx ∧
      t.stopCnt = s.stopCnt ∧ t.shreg = s.shreg ∧ SameFlags s t ∧ SameStore s t ∧
      (t.texp = true ↔ k + 1 = waitTicks s.timer.toNat)

/-- The receiver decodes a frame by time alone: with H and F unchanged, A = max(H + F, 1) and B = max(F, 1), data bit
k is the line's level at tick A + k*B after the start tick and the stop-bit sample the level at tick A + 8*B
(`30_encoding.md` R102). The state is the one after the stop-bit sample, whether the frame then commits or waits once
more. -/
def Obligations.FrameIsDecodedByTimeAlone : Prop :=
  (∀ (H F : Half) (k : Nat), sampleTick H F k = max (H.toNat + F.toNat) 1 + k * max F.toNat 1) ∧
  (∀ (H F : Half) (k : Nat), 1 ≤ F.toNat → sampleTick H F k = H.toNat + (k + 1) * F.toNat) ∧
  ∀ (s : State) (n : Nat), BufferInv s → StartsFrame s → n = sampleTick s.halfDelay s.fullDelay 8 + 1 →
    NoReset s n → KeepsDelays s n →
    ∃ t, after n s = .next t ∧
      (∀ k < 8, t.shreg.getLsbD k = (s.inputAt (sampleTick s.halfDelay s.fullDelay k)).rx) ∧
      t.frameValid = (s.inputAt (sampleTick s.halfDelay s.fullDelay 8)).rx

/-- A frame that starts commits, one or two full-bit delays after data bit 7, whatever the line does, and its byte is
the eight samples (`41_sampling.md` section 3; `42_stop_and_commit.md` section 1). -/
def Obligations.StartedFrameCommitsOnSchedule : Prop :=
  ∀ (s : State) (n : Nat), BufferInv s → StartsFrame s →
    n = sampleTick s.halfDelay s.fullDelay (if s.stop2 then 9 else 8) + 1 → NoReset s n → NoHostWrite s n →
    ∃ t, after n s = .next t ∧ t.seq = .idle ∧ t.out.frameDone = true ∧
      (∀ k < 8, t.shreg.getLsbD k = (s.inputAt (sampleTick s.halfDelay s.fullDelay k)).rx) ∧
      t.frameValid = (s.inputAt (sampleTick s.halfDelay s.fullDelay 8)).rx ∧
      (s.count.toNat < s.capacity → t.count.toNat = s.count.toNat + 1 ∧
        t.buf.entry s.wptr.toNat = some t.shreg)

/-- Every frame that starts commits unless RST intervenes, whatever the line and the host do, within the greatest
number of ticks the delays allow, and commits once (`42_stop_and_commit.md` section 1): there is a number `n` of ticks,
the start tick among them, such that as long as no RST has come the frame is in progress before `n` ticks and
committed at `n`. -/
def Obligations.EveryStartedFrameCommitsUnlessReset : Prop :=
  ∀ s : State, BufferInv s → StartsFrame s → ∃ n, 0 < n ∧ n ≤ 720886 ∧
    ∀ m, 0 < m → m ≤ n → NoReset s m → ∃ t, after m s = .next t ∧
      (m < n → t.seq ≠ .idle ∧ t.out.frameDone = false) ∧
      (m = n → t.seq = .idle ∧ t.out.frameDone = true)

/-- Document property 1 (`95_test_vectors.md` L1.1): a byte sent in format W with bit period `P` is appended as it was
sent if every data sample lies inside its bit time, and the frame is valid if the stop-bit sample does
(`41_sampling.md` section 3). -/
def Obligations.WireFrameIsDecodedAsSent : Prop :=
  ∀ (s : State) (b : Byte) (P n : Nat), BufferInv s → StartsFrame s → s.stop2 = false →
    s.count.toNat < s.capacity → 1 ≤ s.fullDelay.toNat →
    (∀ k < 8, (k + 1) * P ≤ s.halfDelay.toNat + (k + 1) * s.fullDelay.toNat ∧
      s.halfDelay.toNat + (k + 1) * s.fullDelay.toNat < (k + 2) * P) →
    n = s.halfDelay.toNat + 9 * s.fullDelay.toNat + 1 → NoReset s n → NoHostWrite s n →
    (∀ j < 10 * P, some (s.inputAt j).rx = (wireTicks b P true)[j]?) →
    ∃ t, after n s = .next t ∧ t.seq = .idle ∧ t.buf.entry s.wptr.toNat = some b ∧
      t.count.toNat = s.count.toNat + 1 ∧
      (9 * P < n ∧ n ≤ 10 * P → t.frameValid = true ∧ t.framingError = s.framingError)

/-- Document property 2 (`95_test_vectors.md` L1.2): of two frames sent with no gap, with `FULL_DELAY` the bit period
and a half-bit delay below it, both are appended, in order (`70_reset_and_hazards.md` section 4). -/
def Obligations.BackToBackFramesAreBothReceived : Prop :=
  ∀ (s : State) (b c : Byte) (P n : Nat), BufferInv s → StartsFrame s → s.stop2 = false →
    s.fullDelay.toNat = P → s.halfDelay.toNat < P → s.count.toNat + 2 ≤ s.capacity →
    n = 10 * P + s.halfDelay.toNat + 9 * P + 1 → NoReset s n → NoHostWrite s n →
    (∀ j < 20 * P, some (s.inputAt j).rx = (wireTicks b P true ++ wireTicks c P true)[j]?) →
    ∃ t, after n s = .next t ∧ t.count.toNat = s.count.toNat + 2 ∧
      t.buf.entry s.count.toNat = some b ∧ t.buf.entry (s.count.toNat + 1) = some c ∧
      t.frameValid = true ∧ t.framingError = s.framingError
end

