-- ==== Sys2Proof/Laws/Decode.lean ====
section
/-! SUPPORT. The fields of a bus command word, and what the two tables decode to in one readable case analysis each:
`decodeB_bWord` and `decodeT_selector`. -/

namespace Sys2Proof.Laws

open Sys2Proof Sys2Proof.Machine

/-! ### Fields of a bus command word -/

@[simp] theorem bWord_valid (v e : Bool) (a d : Half) : (bWord v e a d)[33] = v := by
  unfold bWord
  rw [← BitVec.getLsbD_eq_getElem]
  rw [BitVec.getLsbD_append, BitVec.getLsbD_append, BitVec.getLsbD_append]
  simp

@[simp] theorem bWord_we (v e : Bool) (a d : Half) : (bWord v e a d)[32] = e := by
  unfold bWord
  rw [← BitVec.getLsbD_eq_getElem]
  rw [BitVec.getLsbD_append, BitVec.getLsbD_append, BitVec.getLsbD_append]
  simp

@[simp] theorem bAddr_bWord (v e : Bool) (a d : Half) : bAddr (bWord v e a d) = a := by
  unfold bWord bAddr
  apply BitVec.eq_of_getLsbD_eq
  intro i hi
  rw [BitVec.getLsbD_extractLsb', BitVec.getLsbD_append, BitVec.getLsbD_append]
  simp [hi]

@[simp] theorem bWdata_bWord (v e : Bool) (a d : Half) : bWdata (bWord v e a d) = d := by
  unfold bWord bWdata
  apply BitVec.eq_of_getLsbD_eq
  intro i hi
  rw [BitVec.getLsbD_extractLsb', BitVec.getLsbD_append]
  simp [hi]

@[simp] theorem bIndex_bWord (v e : Bool) (a d : Half) : bIndex (bWord v e a d) = windowIndex a := by
  unfold bWord bIndex windowIndex
  apply BitVec.eq_of_getLsbD_eq
  intro i hi
  have h16 : i < 16 := by omega
  rw [BitVec.getLsbD_extractLsb', BitVec.getLsbD_append, BitVec.getLsbD_append, BitVec.getLsbD_extractLsb']
  simp [hi, h16]

@[simp] theorem windowIndex_windowAddr (i : BitVec 15) : windowIndex (windowAddr i) = i := by
  unfold windowIndex windowAddr
  apply BitVec.eq_of_getLsbD_eq
  intro k hk
  rw [BitVec.getLsbD_extractLsb', BitVec.getLsbD_append]
  simp [hk]

/-- Every B word is made of its four fields. -/
theorem bWord_fields (w : BWord) : bWord (w.getLsbD 33) (w.getLsbD 32) (bAddr w) (bWdata w) = w := by
  unfold bWord
  apply BitVec.eq_of_getLsbD_eq
  intro i hi
  rw [BitVec.getLsbD_append, BitVec.getLsbD_append, BitVec.getLsbD_append]
  unfold bAddr bWdata
  rw [BitVec.getLsbD_extractLsb', BitVec.getLsbD_extractLsb']
  by_cases h0 : i < 16
  · simp [h0]
  · by_cases h1 : i - 16 < 16
    · have : 16 + (i - 16) = i := by omega
      simp [h0, h1, this]
    · have h : i = 32 ∨ i = 33 := by omega
      rcases h with h | h <;> subst h <;> simp

theorem bWord_inj (v e v' e' : Bool) (a a' d d' : Half) :
    bWord v e a d = bWord v' e' a' d' ↔ v = v' ∧ e = e' ∧ a = a' ∧ d = d' := by
  constructor
  · intro h
    refine ⟨?_, ?_, ?_, ?_⟩
    · simpa using congrArg (fun w : BWord => w.getLsbD 33) h
    · simpa using congrArg (fun w : BWord => w.getLsbD 32) h
    · simpa using congrArg bAddr h
    · simpa using congrArg bWdata h
  · rintro ⟨rfl, rfl, rfl, rfl⟩; rfl

/-! ### What the four masks of the bus table keep -/

theorem bWord_and_valid (v e : Bool) (a d : Half) : bWord v e a d &&& 0x200000000#34 = bWord v false 0 0 := by
  have h : 0x200000000#(1 + 1 + 16 + 16) = 1#1 ++ 0#1 ++ 0#16 ++ 0#16 := by decide
  show (BitVec.ofBool v ++ BitVec.ofBool e ++ a ++ d) &&& 0x200000000#(1 + 1 + 16 + 16) = _
  rw [h]
  simp only [BitVec.and_append, BitVec.and_zero]
  cases v <;> cases e <;> rfl

theorem bWord_and_kind (v e : Bool) (a d : Half) : bWord v e a d &&& 0x300000000#34 = bWord v e 0 0 := by
  have h : 0x300000000#(1 + 1 + 16 + 16) = 1#1 ++ 1#1 ++ 0#16 ++ 0#16 := by decide
  show (BitVec.ofBool v ++ BitVec.ofBool e ++ a ++ d) &&& 0x300000000#(1 + 1 + 16 + 16) = _
  rw [h]
  simp only [BitVec.and_append, BitVec.and_zero]
  cases v <;> cases e <;> rfl

theorem bWord_and_addr (v e : Bool) (a d : Half) : bWord v e a d &&& 0x3FFFF0000#34 = bWord v e a 0 := by
  have h : 0x3FFFF0000#(1 + 1 + 16 + 16) = 1#1 ++ 1#1 ++ BitVec.allOnes 16 ++ 0#16 := by decide
  show (BitVec.ofBool v ++ BitVec.ofBool e ++ a ++ d) &&& 0x3FFFF0000#(1 + 1 + 16 + 16) = _
  rw [h]
  simp only [BitVec.and_append, BitVec.and_zero, BitVec.and_allOnes]
  cases v <;> cases e <;> rfl

theorem bWord_and_window (v e : Bool) (a d : Half) :
    bWord v e a d &&& 0x380000000#34 = bWord v e (a &&& 0x8000#16) 0 := by
  have h : 0x380000000#(1 + 1 + 16 + 16) = 1#1 ++ 1#1 ++ 0x8000#16 ++ 0#16 := by decide
  show (BitVec.ofBool v ++ BitVec.ofBool e ++ a ++ d) &&& 0x380000000#(1 + 1 + 16 + 16) = _
  rw [h]
  simp only [BitVec.and_append, BitVec.and_zero]
  cases v <;> cases e <;> rfl

/-- The window's addresses are those with bit 15 set. -/
theorem and_window_eq (a : Half) : a &&& 0x8000#16 = 0x8000#16 ↔ 0x8000#16 ≤ a := by
  have h : a &&& 0x8000#16 = if a.getLsbD 15 then 0x8000#16 else 0#16 := by
    apply BitVec.eq_of_getLsbD_eq
    intro i hi
    have hc : ∀ k : Fin 16, (0x8000#16).getLsbD k.val = decide (k.val = 15) := by decide
    rw [BitVec.getLsbD_and, hc ⟨i, hi⟩]
    by_cases h15 : i = 15
    · subst h15; cases a.getLsbD 15 <;> simp
    · cases a.getLsbD 15
      · simp [h15]
      · simpa [h15] using (hc ⟨i, hi⟩).trans (by simp [h15])
  have hm : a.getLsbD 15 = decide (0x8000 ≤ a.toNat) := by
    have := BitVec.msb_eq_decide a
    simpa [BitVec.msb_eq_getLsbD_last] using this
  rw [h, hm, BitVec.le_def]
  by_cases hb : 0x8000 ≤ a.toNat <;> simp [hb]

/-! ### The bus table -/

/-- The command of the fields of a bus word: the table of `30_encoding.md` R96 as a case analysis on the fields. -/
def commandOf (valid we : Bool) (addr wdata : Half) : Instr :=
  if !valid then .busNop
  else if we then
    if addr = 0#16 then .wrFull wdata
    else if addr = 1#16 then .wrHalf wdata
    else if addr = 2#16 then .wrCtrl wdata
    else .wrIgn addr wdata
  else if addr = 0#16 then .rdFull
  else if addr = 1#16 then .rdHalf
  else if addr = 2#16 then .rdCtrl
  else if addr = 3#16 then .rdStatus
  else if addr = 4#16 then .rdCount
  else if addr = 5#16 then .rdWptr
  else if addr = 6#16 then .rdShreg
  else if addr = 7#16 then .rdTimerLo
  else if addr = 8#16 then .rdTimerHi
  else if addr = 9#16 then .rdCapacity
  else if 0x8000#16 ≤ addr then .rdBuf (windowIndex addr)
  else .rdRsvd addr

/-- A row of the address mask is hit exactly by the words of its kind and address. -/
theorem hits_addr (v e v' e' : Bool) (a a' d : Half) (x : BWord) (hx : x = bWord v' e' a' 0) :
    (bWord v e a d &&& 0x3FFFF0000#34 == x) = (v == v' && e == e' && a == a') := by
  subst hx
  rw [bWord_and_addr, Bool.eq_iff_iff]
  simp [bWord_inj, and_assoc]

theorem hits_kind (v e v' e' : Bool) (a d : Half) (x : BWord) (hx : x = bWord v' e' 0 0) :
    (bWord v e a d &&& 0x300000000#34 == x) = (v == v' && e == e') := by
  subst hx
  rw [bWord_and_kind, Bool.eq_iff_iff]
  simp [bWord_inj]

theorem hits_valid (v e : Bool) (a d : Half) :
    (bWord v e a d &&& 0x200000000#34 == 0x000000000#34) = !v := by
  rw [bWord_and_valid, show 0x000000000#34 = bWord false false 0 0 by decide, Bool.eq_iff_iff]
  simp [bWord_inj]

theorem hits_window (v e : Bool) (a d : Half) :
    (bWord v e a d &&& 0x380000000#34 == 0x280000000#34) = (v && !e && decide (0x8000#16 ≤ a)) := by
  rw [bWord_and_window, show 0x280000000#34 = bWord true false 0x8000#16 0 by decide, Bool.eq_iff_iff]
  simp only [beq_iff_eq, bWord_inj, and_window_eq, Bool.and_eq_true, Bool.not_eq_true', decide_eq_true_eq,
    and_true, and_assoc]

/-- What the bus table decodes a word of given fields to. -/
theorem decodeB_bWord (v e : Bool) (a d : Half) : decodeB (bWord v e a d) = .ok (commandOf v e a d) := by
  have h : ∀ (a' : Half) (e' : Bool) (x : BWord), x = bWord true e' a' 0 →
      (bWord v e a d &&& 0x3FFFF0000#34 == x) = (v == true && e == e' && a == a') :=
    fun a' e' x hx => hits_addr v e true e' a a' d x hx
  unfold decodeB bRows OpRow.hits
  simp only [List.find?_cons, hits_valid, hits_window,
    hits_kind v e true true a d 0x300000000#34 (by decide), hits_kind v e true false a d 0x200000000#34 (by decide),
    h 0 true 0x300000000#34 (by decide), h 1 true 0x300010000#34 (by decide), h 2 true 0x300020000#34 (by decide),
    h 0 false 0x200000000#34 (by decide), h 1 false 0x200010000#34 (by decide), h 2 false 0x200020000#34 (by decide),
    h 3 false 0x200030000#34 (by decide), h 4 false 0x200040000#34 (by decide), h 5 false 0x200050000#34 (by decide),
    h 6 false 0x200060000#34 (by decide), h 7 false 0x200070000#34 (by decide), h 8 false 0x200080000#34 (by decide),
    h 9 false 0x200090000#34 (by decide)]
  unfold commandOf
  have hne : ∀ k : Half, ¬ a = k → (a == k) = false := fun k hk => by simpa using hk
  cases v
  · rfl
  · cases e
    · by_cases h0 : a = 0#16
      · subst h0; rfl
      by_cases h1 : a = 1#16
      · subst h1; rfl
      by_cases h2 : a = 2#16
      · subst h2; rfl
      by_cases h3 : a = 3#16
      · subst h3; rfl
      by_cases h4 : a = 4#16
      · subst h4; rfl
      by_cases h5 : a = 5#16
      · subst h5; rfl
      by_cases h6 : a = 6#16
      · subst h6; rfl
      by_cases h7 : a = 7#16
      · subst h7; rfl
      by_cases h8 : a = 8#16
      · subst h8; rfl
      by_cases h9 : a = 9#16
      · subst h9; rfl
      by_cases hw : 0x8000#16 ≤ a <;>
        simp [h0, h1, h2, h3, h4, h5, h6, h7, h8, h9, hw, hne]
    · by_cases h0 : a = 0#16
      · subst h0; simp
      by_cases h1 : a = 1#16
      · subst h1; simp
      by_cases h2 : a = 2#16
      · subst h2; simp
      simp [h0, h1, h2, hne]

/-- What the bus table decodes the bus word of a tick's inputs to. -/
theorem decodeB_busWord (inp : Inputs) :
    decodeB inp.busWord = .ok (commandOf inp.busValid inp.busWe inp.busAddr inp.busWdata) :=
  decodeB_bWord ..

/-! ### The operation table -/

/-- The operation that the conditions of a tick select: the table of `30_encoding.md` R92 as a case analysis. -/
def operationOf (rst startOk fall : Bool) (seq : SeqState) (texp last : Bool) (stopCnt : BitVec 1)
    (stop2 rx : Bool) : Instr :=
  if rst then .rst
  else match seq with
  | .idle => if startOk && fall then .idleStart else .idlePoll rx
  | .sampling => if !texp then .sampWait rx else if !last then .sampBit rx else .sampLast rx
  | .stopWait =>
    if !texp then .stopWait rx
    else if stopCnt = 1 then .stopDone2 rx
    else if stop2 then .stopNext rx
    else .stopDone1 rx

/-- What the operation table decodes the selector word of a tick to. -/
theorem decodeT_selector (s : State) (inp : Inputs) :
    decodeT (selector s inp) =
      .ok (operationOf inp.rst s.startOk (s.fall inp.rx) s.seq s.texp s.last s.stopCnt s.stop2 inp.rx) := by
  have h : ∀ (r so f te la s2 rx : Bool) (sc : BitVec 1),
      ∀ q ∈ [SeqState.idle, SeqState.sampling, SeqState.stopWait],
      decodeT (BitVec.ofBool r ++ BitVec.ofBool so ++ BitVec.ofBool f ++ q.code ++ BitVec.ofBool te
        ++ BitVec.ofBool la ++ sc ++ BitVec.ofBool s2 ++ BitVec.ofBool rx)
        = .ok (operationOf r so f q te la sc s2 rx) := by
    decide +kernel
  exact h _ _ _ _ _ _ _ _ s.seq (by cases s.seq <;> simp)

end Sys2Proof.Laws
end

