-- ==== Sys2Proof/Laws/Memory.lean ====
section
/-! SUPPORT. The laws of the byte buffer: its two operations and its canonical form. -/

namespace Sys2Proof.Laws

open Sys2Proof Sys2Proof.Machine

@[simp] theorem indexWithin_iff (i top : Nat) : indexWithin i top = true ↔ i ≤ top := by
  induction i generalizing top with
  | zero => simp [indexWithin]
  | succ i ih => cases top <;> simp [indexWithin, ih]

@[simp] theorem inBuffer_iff (s : State) (i : Nat) : s.inBuffer i = true ↔ i < s.capacity := by
  simp [State.inBuffer, State.capacity]

@[simp] theorem hasRoom_iff (s : State) : s.hasRoom = true ↔ s.count.toNat < s.capacity := by
  simp [State.hasRoom]

@[simp] theorem entry_nil (i : Nat) : Memory.entry [] i = none := rfl

/-- Reading an entry right after it was stored gives the byte stored. -/
@[simp] theorem entry_store_same (m : Memory) (i : Nat) (b : Byte) : (m.store i b).entry i = some b := by
  induction m with
  | nil => simp [Memory.store, Memory.entry]
  | cons c m ih =>
    obtain ⟨a, x⟩ := c
    unfold Memory.store
    split
    · simp [Memory.entry]
    · split
      · simp [Memory.entry]
      · simp [Memory.entry, ih, Ne.symm ‹¬i = a›]

/-- Storing an entry leaves every other entry as it was. -/
theorem entry_store_other (m : Memory) {i j : Nat} (b : Byte) (h : j ≠ i) :
    (m.store i b).entry j = m.entry j := by
  induction m with
  | nil => simp [Memory.store, Memory.entry, h.symm]
  | cons c m ih =>
    obtain ⟨a, x⟩ := c
    unfold Memory.store
    split
    · simp [Memory.entry, h.symm]
    · split
      · subst_vars; simp [Memory.entry, h.symm]
      · simp [Memory.entry, ih]

/-- The indices listed after a store. -/
theorem mem_store_keys (m : Memory) (i : Nat) (b : Byte) (k : Nat) :
    k ∈ (m.store i b).map Prod.fst ↔ k = i ∨ k ∈ m.map Prod.fst := by
  induction m with
  | nil => simp [Memory.store]
  | cons c m ih =>
    obtain ⟨a, x⟩ := c
    unfold Memory.store
    split
    · simp
    · split
      · subst_vars; simp
      · simp only [List.map_cons, List.mem_cons, ih]; tauto

/-- A store keeps the canonical form. -/
theorem store_wf (m : Memory) (i : Nat) (b : Byte) (h : Memory.wf m) : Memory.wf (m.store i b) := by
  induction m with
  | nil => simp [Memory.store, Memory.wf]
  | cons c m ih =>
    obtain ⟨a, x⟩ := c
    rw [Memory.wf, List.map_cons, List.pairwise_cons] at h
    unfold Memory.store
    split
    · rename_i hlt
      rw [Memory.wf, List.map_cons, List.pairwise_cons, List.map_cons, List.pairwise_cons]
      refine ⟨fun k hk => ?_, h⟩
      rcases List.mem_cons.mp hk with rfl | hk
      · exact hlt
      · exact Nat.lt_trans hlt (h.1 k hk)
    · split
      · subst_vars
        rw [Memory.wf, List.map_cons, List.pairwise_cons]
        exact h
      · rename_i hge hne
        rw [Memory.wf, List.map_cons, List.pairwise_cons]
        refine ⟨fun k hk => ?_, ih h.2⟩
        rcases (mem_store_keys m i b k).mp hk with rfl | hk
        · show a < k; omega
        · exact h.1 k hk

/-- The empty buffer is canonical; so is the buffer of the reset state. -/
theorem reset_buf_wf (top : Fin 32768) : (State.resetWith top).buf.wf := by
  simp [State.resetWith, Memory.wf]

/-- Two canonical buffers that read the same are the same list. -/
theorem wf_ext (m m' : Memory) (h : Memory.wf m) (h' : Memory.wf m') (heq : ∀ i, m.entry i = m'.entry i) :
    m = m' := by
  have none_of_lt : ∀ (m : Memory) (i : Nat), (∀ k ∈ m.map Prod.fst, i < k) → m.entry i = none := by
    intro m i hm
    induction m with
    | nil => rfl
    | cons c m ih =>
      have hc : i < c.1 := hm c.1 (by simp)
      have := ih fun k hk => hm k (by simp only [List.map_cons, List.mem_cons]; exact Or.inr hk)
      simp [Memory.entry, this, Nat.ne_of_gt hc]
  induction m generalizing m' with
  | nil =>
    cases m' with
    | nil => rfl
    | cons c m' => have := heq c.1; simp [Memory.entry] at this
  | cons c m ih =>
    cases m' with
    | nil => have := heq c.1; simp [Memory.entry] at this
    | cons d m' =>
      rw [Memory.wf, List.map_cons, List.pairwise_cons] at h h'
      have hcd : c.1 = d.1 := by
        rcases Nat.lt_trichotomy c.1 d.1 with hlt | heq' | hlt
        · have h1 := heq c.1
          rw [none_of_lt (d :: m') c.1 (by
            intro k hk; rcases List.mem_cons.mp hk with rfl | hk
            · exact hlt
            · exact Nat.lt_trans hlt (h'.1 k hk))] at h1
          simp [Memory.entry] at h1
        · exact heq'
        · have h1 := heq d.1
          rw [none_of_lt (c :: m) d.1 (by
            intro k hk; rcases List.mem_cons.mp hk with rfl | hk
            · exact hlt
            · exact Nat.lt_trans hlt (h.1 k hk))] at h1
          simp [Memory.entry] at h1
      have hb : c.2 = d.2 := by
        have h1 := heq c.1
        simpa [Memory.entry, hcd] using h1
      have htail : m = m' := by
        apply ih m' h.2 h'.2
        intro i
        by_cases hi : i = c.1
        · subst hi
          rw [none_of_lt m c.1 h.1, none_of_lt m' c.1 (by rw [hcd]; exact h'.1)]
        · have h1 := heq i
          have hd : ¬ d.1 = i := by rw [← hcd]; exact fun e => hi e.symm
          simpa [Memory.entry, Ne.symm hi, hd] using h1
      rw [htail, Prod.ext hcd hb]

end Sys2Proof.Laws
end

