-- ==== Sys2Proof/Laws/State.lean ====
section
/-! SUPPORT. One lemma per field per named update of a State, so that no proof unfolds a record update. -/

namespace Sys2Proof.Laws

open Sys2Proof Sys2Proof.Machine

/-! ### clearEvents -/

@[simp] theorem clearEvents_seq (s : State) : (s.clearEvents).seq = s.seq := rfl
@[simp] theorem clearEvents_timer (s : State) : (s.clearEvents).timer = s.timer := rfl
@[simp] theorem clearEvents_bitIdx (s : State) : (s.clearEvents).bitIdx = s.bitIdx := rfl
@[simp] theorem clearEvents_stopCnt (s : State) : (s.clearEvents).stopCnt = s.stopCnt := rfl
@[simp] theorem clearEvents_shreg (s : State) : (s.clearEvents).shreg = s.shreg := rfl
@[simp] theorem clearEvents_rxPrev (s : State) : (s.clearEvents).rxPrev = s.rxPrev := rfl
@[simp] theorem clearEvents_frameValid (s : State) : (s.clearEvents).frameValid = s.frameValid := rfl
@[simp] theorem clearEvents_framingError (s : State) : (s.clearEvents).framingError = s.framingError := rfl
@[simp] theorem clearEvents_bufferFull (s : State) : (s.clearEvents).bufferFull = s.bufferFull := rfl
@[simp] theorem clearEvents_count (s : State) : (s.clearEvents).count = s.count := rfl
@[simp] theorem clearEvents_wptr (s : State) : (s.clearEvents).wptr = s.wptr := rfl
@[simp] theorem clearEvents_buf (s : State) : (s.clearEvents).buf = s.buf := rfl
@[simp] theorem clearEvents_fullDelay (s : State) : (s.clearEvents).fullDelay = s.fullDelay := rfl
@[simp] theorem clearEvents_halfDelay (s : State) : (s.clearEvents).halfDelay = s.halfDelay := rfl
@[simp] theorem clearEvents_en (s : State) : (s.clearEvents).en = s.en := rfl
@[simp] theorem clearEvents_stop2 (s : State) : (s.clearEvents).stop2 = s.stop2 := rfl
@[simp] theorem clearEvents_ovfHalt (s : State) : (s.clearEvents).ovfHalt = s.ovfHalt := rfl
@[simp] theorem clearEvents_capacityTop (s : State) : (s.clearEvents).capacityTop = s.capacityTop := rfl
@[simp] theorem clearEvents_out (s : State) : (s.clearEvents).out = { s.out with frameDone := false, framingError := false, bufferFull := false } := rfl
@[simp] theorem clearEvents_script (s : State) : (s.clearEvents).script = s.script := rfl
@[simp] theorem clearEvents_tickNo (s : State) : (s.clearEvents).tickNo = s.tickNo := rfl
@[simp] theorem clearEvents_bufEpoch (s : State) : (s.clearEvents).bufEpoch = s.bufEpoch := rfl

/-! ### samplePin -/

@[simp] theorem samplePin_seq (s : State) (rx : Bool) : (s.samplePin rx).seq = s.seq := rfl
@[simp] theorem samplePin_timer (s : State) (rx : Bool) : (s.samplePin rx).timer = s.timer := rfl
@[simp] theorem samplePin_bitIdx (s : State) (rx : Bool) : (s.samplePin rx).bitIdx = s.bitIdx := rfl
@[simp] theorem samplePin_stopCnt (s : State) (rx : Bool) : (s.samplePin rx).stopCnt = s.stopCnt := rfl
@[simp] theorem samplePin_shreg (s : State) (rx : Bool) : (s.samplePin rx).shreg = s.shreg := rfl
@[simp] theorem samplePin_rxPrev (s : State) (rx : Bool) : (s.samplePin rx).rxPrev = rx := rfl
@[simp] theorem samplePin_frameValid (s : State) (rx : Bool) : (s.samplePin rx).frameValid = s.frameValid := rfl
@[simp] theorem samplePin_framingError (s : State) (rx : Bool) : (s.samplePin rx).framingError = s.framingError := rfl
@[simp] theorem samplePin_bufferFull (s : State) (rx : Bool) : (s.samplePin rx).bufferFull = s.bufferFull := rfl
@[simp] theorem samplePin_count (s : State) (rx : Bool) : (s.samplePin rx).count = s.count := rfl
@[simp] theorem samplePin_wptr (s : State) (rx : Bool) : (s.samplePin rx).wptr = s.wptr := rfl
@[simp] theorem samplePin_buf (s : State) (rx : Bool) : (s.samplePin rx).buf = s.buf := rfl
@[simp] theorem samplePin_fullDelay (s : State) (rx : Bool) : (s.samplePin rx).fullDelay = s.fullDelay := rfl
@[simp] theorem samplePin_halfDelay (s : State) (rx : Bool) : (s.samplePin rx).halfDelay = s.halfDelay := rfl
@[simp] theorem samplePin_en (s : State) (rx : Bool) : (s.samplePin rx).en = s.en := rfl
@[simp] theorem samplePin_stop2 (s : State) (rx : Bool) : (s.samplePin rx).stop2 = s.stop2 := rfl
@[simp] theorem samplePin_ovfHalt (s : State) (rx : Bool) : (s.samplePin rx).ovfHalt = s.ovfHalt := rfl
@[simp] theorem samplePin_capacityTop (s : State) (rx : Bool) : (s.samplePin rx).capacityTop = s.capacityTop := rfl
@[simp] theorem samplePin_out (s : State) (rx : Bool) : (s.samplePin rx).out = { s.out with frameDone := false, framingError := false, bufferFull := false } := rfl
@[simp] theorem samplePin_script (s : State) (rx : Bool) : (s.samplePin rx).script = s.script := rfl
@[simp] theorem samplePin_tickNo (s : State) (rx : Bool) : (s.samplePin rx).tickNo = s.tickNo := rfl
@[simp] theorem samplePin_bufEpoch (s : State) (rx : Bool) : (s.samplePin rx).bufEpoch = s.bufEpoch := rfl

/-! ### raise .framingErrorCondition -/

@[simp] theorem raiseFramingError_seq (s : State) : (s.raise .framingErrorCondition).seq = s.seq := rfl
@[simp] theorem raiseFramingError_timer (s : State) : (s.raise .framingErrorCondition).timer = s.timer := rfl
@[simp] theorem raiseFramingError_bitIdx (s : State) : (s.raise .framingErrorCondition).bitIdx = s.bitIdx := rfl
@[simp] theorem raiseFramingError_stopCnt (s : State) : (s.raise .framingErrorCondition).stopCnt = s.stopCnt := rfl
@[simp] theorem raiseFramingError_shreg (s : State) : (s.raise .framingErrorCondition).shreg = s.shreg := rfl
@[simp] theorem raiseFramingError_rxPrev (s : State) : (s.raise .framingErrorCondition).rxPrev = s.rxPrev := rfl
@[simp] theorem raiseFramingError_frameValid (s : State) : (s.raise .framingErrorCondition).frameValid = s.frameValid := rfl
@[simp] theorem raiseFramingError_framingError (s : State) : (s.raise .framingErrorCondition).framingError = true := rfl
@[simp] theorem raiseFramingError_bufferFull (s : State) : (s.raise .framingErrorCondition).bufferFull = s.bufferFull := rfl
@[simp] theorem raiseFramingError_count (s : State) : (s.raise .framingErrorCondition).count = s.count := rfl
@[simp] theorem raiseFramingError_wptr (s : State) : (s.raise .framingErrorCondition).wptr = s.wptr := rfl
@[simp] theorem raiseFramingError_buf (s : State) : (s.raise .framingErrorCondition).buf = s.buf := rfl
@[simp] theorem raiseFramingError_fullDelay (s : State) : (s.raise .framingErrorCondition).fullDelay = s.fullDelay := rfl
@[simp] theorem raiseFramingError_halfDelay (s : State) : (s.raise .framingErrorCondition).halfDelay = s.halfDelay := rfl
@[simp] theorem raiseFramingError_en (s : State) : (s.raise .framingErrorCondition).en = s.en := rfl
@[simp] theorem raiseFramingError_stop2 (s : State) : (s.raise .framingErrorCondition).stop2 = s.stop2 := rfl
@[simp] theorem raiseFramingError_ovfHalt (s : State) : (s.raise .framingErrorCondition).ovfHalt = s.ovfHalt := rfl
@[simp] theorem raiseFramingError_capacityTop (s : State) : (s.raise .framingErrorCondition).capacityTop = s.capacityTop := rfl
@[simp] theorem raiseFramingError_out (s : State) : (s.raise .framingErrorCondition).out = { s.out with framingError := true } := rfl
@[simp] theorem raiseFramingError_script (s : State) : (s.raise .framingErrorCondition).script = s.script := rfl
@[simp] theorem raiseFramingError_tickNo (s : State) : (s.raise .framingErrorCondition).tickNo = s.tickNo := rfl
@[simp] theorem raiseFramingError_bufEpoch (s : State) : (s.raise .framingErrorCondition).bufEpoch = s.bufEpoch := rfl

/-! ### raise .bufferFullCondition -/

@[simp] theorem raiseBufferFull_seq (s : State) : (s.raise .bufferFullCondition).seq = s.seq := rfl
@[simp] theorem raiseBufferFull_timer (s : State) : (s.raise .bufferFullCondition).timer = s.timer := rfl
@[simp] theorem raiseBufferFull_bitIdx (s : State) : (s.raise .bufferFullCondition).bitIdx = s.bitIdx := rfl
@[simp] theorem raiseBufferFull_stopCnt (s : State) : (s.raise .bufferFullCondition).stopCnt = s.stopCnt := rfl
@[simp] theorem raiseBufferFull_shreg (s : State) : (s.raise .bufferFullCondition).shreg = s.shreg := rfl
@[simp] theorem raiseBufferFull_rxPrev (s : State) : (s.raise .bufferFullCondition).rxPrev = s.rxPrev := rfl
@[simp] theorem raiseBufferFull_frameValid (s : State) : (s.raise .bufferFullCondition).frameValid = s.frameValid := rfl
@[simp] theorem raiseBufferFull_framingError (s : State) : (s.raise .bufferFullCondition).framingError = s.framingError := rfl
@[simp] theorem raiseBufferFull_bufferFull (s : State) : (s.raise .bufferFullCondition).bufferFull = true := rfl
@[simp] theorem raiseBufferFull_count (s : State) : (s.raise .bufferFullCondition).count = s.count := rfl
@[simp] theorem raiseBufferFull_wptr (s : State) : (s.raise .bufferFullCondition).wptr = s.wptr := rfl
@[simp] theorem raiseBufferFull_buf (s : State) : (s.raise .bufferFullCondition).buf = s.buf := rfl
@[simp] theorem raiseBufferFull_fullDelay (s : State) : (s.raise .bufferFullCondition).fullDelay = s.fullDelay := rfl
@[simp] theorem raiseBufferFull_halfDelay (s : State) : (s.raise .bufferFullCondition).halfDelay = s.halfDelay := rfl
@[simp] theorem raiseBufferFull_en (s : State) : (s.raise .bufferFullCondition).en = s.en := rfl
@[simp] theorem raiseBufferFull_stop2 (s : State) : (s.raise .bufferFullCondition).stop2 = s.stop2 := rfl
@[simp] theorem raiseBufferFull_ovfHalt (s : State) : (s.raise .bufferFullCondition).ovfHalt = s.ovfHalt := rfl
@[simp] theorem raiseBufferFull_capacityTop (s : State) : (s.raise .bufferFullCondition).capacityTop = s.capacityTop := rfl
@[simp] theorem raiseBufferFull_out (s : State) : (s.raise .bufferFullCondition).out = { s.out with bufferFull := true } := rfl
@[simp] theorem raiseBufferFull_script (s : State) : (s.raise .bufferFullCondition).script = s.script := rfl
@[simp] theorem raiseBufferFull_tickNo (s : State) : (s.raise .bufferFullCondition).tickNo = s.tickNo := rfl
@[simp] theorem raiseBufferFull_bufEpoch (s : State) : (s.raise .bufferFullCondition).bufEpoch = s.bufEpoch := rfl

/-! ### stopSample -/

@[simp] theorem stopSample_seq (s : State) (v : Bool) : (s.stopSample v).seq = s.seq := by cases v <;> simp [State.stopSample]
@[simp] theorem stopSample_timer (s : State) (v : Bool) : (s.stopSample v).timer = s.timer := by cases v <;> simp [State.stopSample]
@[simp] theorem stopSample_bitIdx (s : State) (v : Bool) : (s.stopSample v).bitIdx = s.bitIdx := by cases v <;> simp [State.stopSample]
@[simp] theorem stopSample_stopCnt (s : State) (v : Bool) : (s.stopSample v).stopCnt = s.stopCnt := by cases v <;> simp [State.stopSample]
@[simp] theorem stopSample_shreg (s : State) (v : Bool) : (s.stopSample v).shreg = s.shreg := by cases v <;> simp [State.stopSample]
@[simp] theorem stopSample_rxPrev (s : State) (v : Bool) : (s.stopSample v).rxPrev = s.rxPrev := by cases v <;> simp [State.stopSample]
@[simp] theorem stopSample_frameValid (s : State) (v : Bool) : (s.stopSample v).frameValid = v := by cases v <;> simp [State.stopSample]
@[simp] theorem stopSample_framingError (s : State) (v : Bool) : (s.stopSample v).framingError = (s.framingError || !v) := by cases v <;> simp [State.stopSample]
@[simp] theorem stopSample_bufferFull (s : State) (v : Bool) : (s.stopSample v).bufferFull = s.bufferFull := by cases v <;> simp [State.stopSample]
@[simp] theorem stopSample_count (s : State) (v : Bool) : (s.stopSample v).count = s.count := by cases v <;> simp [State.stopSample]
@[simp] theorem stopSample_wptr (s : State) (v : Bool) : (s.stopSample v).wptr = s.wptr := by cases v <;> simp [State.stopSample]
@[simp] theorem stopSample_buf (s : State) (v : Bool) : (s.stopSample v).buf = s.buf := by cases v <;> simp [State.stopSample]
@[simp] theorem stopSample_fullDelay (s : State) (v : Bool) : (s.stopSample v).fullDelay = s.fullDelay := by cases v <;> simp [State.stopSample]
@[simp] theorem stopSample_halfDelay (s : State) (v : Bool) : (s.stopSample v).halfDelay = s.halfDelay := by cases v <;> simp [State.stopSample]
@[simp] theorem stopSample_en (s : State) (v : Bool) : (s.stopSample v).en = s.en := by cases v <;> simp [State.stopSample]
@[simp] theorem stopSample_stop2 (s : State) (v : Bool) : (s.stopSample v).stop2 = s.stop2 := by cases v <;> simp [State.stopSample]
@[simp] theorem stopSample_ovfHalt (s : State) (v : Bool) : (s.stopSample v).ovfHalt = s.ovfHalt := by cases v <;> simp [State.stopSample]
@[simp] theorem stopSample_capacityTop (s : State) (v : Bool) : (s.stopSample v).capacityTop = s.capacityTop := by cases v <;> simp [State.stopSample]
@[simp] theorem stopSample_out (s : State) (v : Bool) : (s.stopSample v).out = { s.out with framingError := s.out.framingError || !v } := by cases v <;> simp [State.stopSample]
@[simp] theorem stopSample_script (s : State) (v : Bool) : (s.stopSample v).script = s.script := by cases v <;> simp [State.stopSample]
@[simp] theorem stopSample_tickNo (s : State) (v : Bool) : (s.stopSample v).tickNo = s.tickNo := by cases v <;> simp [State.stopSample]
@[simp] theorem stopSample_bufEpoch (s : State) (v : Bool) : (s.stopSample v).bufEpoch = s.bufEpoch := by cases v <;> simp [State.stopSample]

/-! ### driveRdata -/

@[simp] theorem driveRdata_seq (s : State) (v : Half) : (s.driveRdata v).seq = s.seq := rfl
@[simp] theorem driveRdata_timer (s : State) (v : Half) : (s.driveRdata v).timer = s.timer := rfl
@[simp] theorem driveRdata_bitIdx (s : State) (v : Half) : (s.driveRdata v).bitIdx = s.bitIdx := rfl
@[simp] theorem driveRdata_stopCnt (s : State) (v : Half) : (s.driveRdata v).stopCnt = s.stopCnt := rfl
@[simp] theorem driveRdata_shreg (s : State) (v : Half) : (s.driveRdata v).shreg = s.shreg := rfl
@[simp] theorem driveRdata_rxPrev (s : State) (v : Half) : (s.driveRdata v).rxPrev = s.rxPrev := rfl
@[simp] theorem driveRdata_frameValid (s : State) (v : Half) : (s.driveRdata v).frameValid = s.frameValid := rfl
@[simp] theorem driveRdata_framingError (s : State) (v : Half) : (s.driveRdata v).framingError = s.framingError := rfl
@[simp] theorem driveRdata_bufferFull (s : State) (v : Half) : (s.driveRdata v).bufferFull = s.bufferFull := rfl
@[simp] theorem driveRdata_count (s : State) (v : Half) : (s.driveRdata v).count = s.count := rfl
@[simp] theorem driveRdata_wptr (s : State) (v : Half) : (s.driveRdata v).wptr = s.wptr := rfl
@[simp] theorem driveRdata_buf (s : State) (v : Half) : (s.driveRdata v).buf = s.buf := rfl
@[simp] theorem driveRdata_fullDelay (s : State) (v : Half) : (s.driveRdata v).fullDelay = s.fullDelay := rfl
@[simp] theorem driveRdata_halfDelay (s : State) (v : Half) : (s.driveRdata v).halfDelay = s.halfDelay := rfl
@[simp] theorem driveRdata_en (s : State) (v : Half) : (s.driveRdata v).en = s.en := rfl
@[simp] theorem driveRdata_stop2 (s : State) (v : Half) : (s.driveRdata v).stop2 = s.stop2 := rfl
@[simp] theorem driveRdata_ovfHalt (s : State) (v : Half) : (s.driveRdata v).ovfHalt = s.ovfHalt := rfl
@[simp] theorem driveRdata_capacityTop (s : State) (v : Half) : (s.driveRdata v).capacityTop = s.capacityTop := rfl
@[simp] theorem driveRdata_out (s : State) (v : Half) : (s.driveRdata v).out = { s.out with busRdata := v } := rfl
@[simp] theorem driveRdata_script (s : State) (v : Half) : (s.driveRdata v).script = s.script := rfl
@[simp] theorem driveRdata_tickNo (s : State) (v : Half) : (s.driveRdata v).tickNo = s.tickNo := rfl
@[simp] theorem driveRdata_bufEpoch (s : State) (v : Half) : (s.driveRdata v).bufEpoch = s.bufEpoch := rfl

/-! ### consumed -/

@[simp] theorem consumed_seq (s : State) : (s.consumed).seq = s.seq := rfl
@[simp] theorem consumed_timer (s : State) : (s.consumed).timer = s.timer := rfl
@[simp] theorem consumed_bitIdx (s : State) : (s.consumed).bitIdx = s.bitIdx := rfl
@[simp] theorem consumed_stopCnt (s : State) : (s.consumed).stopCnt = s.stopCnt := rfl
@[simp] theorem consumed_shreg (s : State) : (s.consumed).shreg = s.shreg := rfl
@[simp] theorem consumed_rxPrev (s : State) : (s.consumed).rxPrev = s.rxPrev := rfl
@[simp] theorem consumed_frameValid (s : State) : (s.consumed).frameValid = s.frameValid := rfl
@[simp] theorem consumed_framingError (s : State) : (s.consumed).framingError = s.framingError := rfl
@[simp] theorem consumed_bufferFull (s : State) : (s.consumed).bufferFull = s.bufferFull := rfl
@[simp] theorem consumed_count (s : State) : (s.consumed).count = s.count := rfl
@[simp] theorem consumed_wptr (s : State) : (s.consumed).wptr = s.wptr := rfl
@[simp] theorem consumed_buf (s : State) : (s.consumed).buf = s.buf := rfl
@[simp] theorem consumed_fullDelay (s : State) : (s.consumed).fullDelay = s.fullDelay := rfl
@[simp] theorem consumed_halfDelay (s : State) : (s.consumed).halfDelay = s.halfDelay := rfl
@[simp] theorem consumed_en (s : State) : (s.consumed).en = s.en := rfl
@[simp] theorem consumed_stop2 (s : State) : (s.consumed).stop2 = s.stop2 := rfl
@[simp] theorem consumed_ovfHalt (s : State) : (s.consumed).ovfHalt = s.ovfHalt := rfl
@[simp] theorem consumed_capacityTop (s : State) : (s.consumed).capacityTop = s.capacityTop := rfl
@[simp] theorem consumed_out (s : State) : (s.consumed).out = s.out := rfl
@[simp] theorem consumed_script (s : State) : (s.consumed).script = s.script.tail := rfl
@[simp] theorem consumed_tickNo (s : State) : (s.consumed).tickNo = s.tickNo + 1 := rfl
@[simp] theorem consumed_bufEpoch (s : State) : (s.consumed).bufEpoch = s.bufEpoch := rfl

/-! ### withInput -/

@[simp] theorem withInput_seq (s : State) (inp : Inputs) : (s.withInput inp).seq = s.seq := rfl
@[simp] theorem withInput_timer (s : State) (inp : Inputs) : (s.withInput inp).timer = s.timer := rfl
@[simp] theorem withInput_bitIdx (s : State) (inp : Inputs) : (s.withInput inp).bitIdx = s.bitIdx := rfl
@[simp] theorem withInput_stopCnt (s : State) (inp : Inputs) : (s.withInput inp).stopCnt = s.stopCnt := rfl
@[simp] theorem withInput_shreg (s : State) (inp : Inputs) : (s.withInput inp).shreg = s.shreg := rfl
@[simp] theorem withInput_rxPrev (s : State) (inp : Inputs) : (s.withInput inp).rxPrev = s.rxPrev := rfl
@[simp] theorem withInput_frameValid (s : State) (inp : Inputs) : (s.withInput inp).frameValid = s.frameValid := rfl
@[simp] theorem withInput_framingError (s : State) (inp : Inputs) : (s.withInput inp).framingError = s.framingError := rfl
@[simp] theorem withInput_bufferFull (s : State) (inp : Inputs) : (s.withInput inp).bufferFull = s.bufferFull := rfl
@[simp] theorem withInput_count (s : State) (inp : Inputs) : (s.withInput inp).count = s.count := rfl
@[simp] theorem withInput_wptr (s : State) (inp : Inputs) : (s.withInput inp).wptr = s.wptr := rfl
@[simp] theorem withInput_buf (s : State) (inp : Inputs) : (s.withInput inp).buf = s.buf := rfl
@[simp] theorem withInput_fullDelay (s : State) (inp : Inputs) : (s.withInput inp).fullDelay = s.fullDelay := rfl
@[simp] theorem withInput_halfDelay (s : State) (inp : Inputs) : (s.withInput inp).halfDelay = s.halfDelay := rfl
@[simp] theorem withInput_en (s : State) (inp : Inputs) : (s.withInput inp).en = s.en := rfl
@[simp] theorem withInput_stop2 (s : State) (inp : Inputs) : (s.withInput inp).stop2 = s.stop2 := rfl
@[simp] theorem withInput_ovfHalt (s : State) (inp : Inputs) : (s.withInput inp).ovfHalt = s.ovfHalt := rfl
@[simp] theorem withInput_capacityTop (s : State) (inp : Inputs) : (s.withInput inp).capacityTop = s.capacityTop := rfl
@[simp] theorem withInput_out (s : State) (inp : Inputs) : (s.withInput inp).out = s.out := rfl
@[simp] theorem withInput_script (s : State) (inp : Inputs) : (s.withInput inp).script = inp :: s.script.tail := rfl
@[simp] theorem withInput_tickNo (s : State) (inp : Inputs) : (s.withInput inp).tickNo = s.tickNo := rfl
@[simp] theorem withInput_bufEpoch (s : State) (inp : Inputs) : (s.withInput inp).bufEpoch = s.bufEpoch := rfl

/-! ### memWrite -/

@[simp] theorem memWrite_seq (s : State) (a v : Half) : (s.memWrite a v).seq = s.seq := by
  unfold State.memWrite; split_ifs <;> rfl
@[simp] theorem memWrite_timer (s : State) (a v : Half) : (s.memWrite a v).timer = s.timer := by
  unfold State.memWrite; split_ifs <;> rfl
@[simp] theorem memWrite_bitIdx (s : State) (a v : Half) : (s.memWrite a v).bitIdx = s.bitIdx := by
  unfold State.memWrite; split_ifs <;> rfl
@[simp] theorem memWrite_stopCnt (s : State) (a v : Half) : (s.memWrite a v).stopCnt = s.stopCnt := by
  unfold State.memWrite; split_ifs <;> rfl
@[simp] theorem memWrite_shreg (s : State) (a v : Half) : (s.memWrite a v).shreg = s.shreg := by
  unfold State.memWrite; split_ifs <;> rfl
@[simp] theorem memWrite_rxPrev (s : State) (a v : Half) : (s.memWrite a v).rxPrev = s.rxPrev := by
  unfold State.memWrite; split_ifs <;> rfl
@[simp] theorem memWrite_frameValid (s : State) (a v : Half) : (s.memWrite a v).frameValid = s.frameValid := by
  unfold State.memWrite; split_ifs <;> rfl
@[simp] theorem memWrite_framingError (s : State) (a v : Half) : (s.memWrite a v).framingError = s.framingError := by
  unfold State.memWrite; split_ifs <;> rfl
@[simp] theorem memWrite_bufferFull (s : State) (a v : Half) : (s.memWrite a v).bufferFull = s.bufferFull := by
  unfold State.memWrite; split_ifs <;> rfl
@[simp] theorem memWrite_count (s : State) (a v : Half) : (s.memWrite a v).count = s.count := by
  unfold State.memWrite; split_ifs <;> rfl
@[simp] theorem memWrite_wptr (s : State) (a v : Half) : (s.memWrite a v).wptr = s.wptr := by
  unfold State.memWrite; split_ifs <;> rfl
@[simp] theorem memWrite_buf (s : State) (a v : Half) : (s.memWrite a v).buf = s.buf := by
  unfold State.memWrite; split_ifs <;> rfl
theorem memWrite_fullDelay (s : State) (a v : Half) : (s.memWrite a v).fullDelay = if a = 0#16 then v else s.fullDelay := by
  unfold State.memWrite; split_ifs <;> simp_all
theorem memWrite_halfDelay (s : State) (a v : Half) : (s.memWrite a v).halfDelay = if a = 1#16 then v else s.halfDelay := by
  unfold State.memWrite; split_ifs <;> simp_all
theorem memWrite_en (s : State) (a v : Half) : (s.memWrite a v).en = if a = 2#16 then v.getLsbD 0 else s.en := by
  unfold State.memWrite; split_ifs <;> simp_all
theorem memWrite_stop2 (s : State) (a v : Half) : (s.memWrite a v).stop2 = if a = 2#16 then v.getLsbD 1 else s.stop2 := by
  unfold State.memWrite; split_ifs <;> simp_all
theorem memWrite_ovfHalt (s : State) (a v : Half) : (s.memWrite a v).ovfHalt = if a = 2#16 then v.getLsbD 2 else s.ovfHalt := by
  unfold State.memWrite; split_ifs <;> simp_all
@[simp] theorem memWrite_capacityTop (s : State) (a v : Half) : (s.memWrite a v).capacityTop = s.capacityTop := by
  unfold State.memWrite; split_ifs <;> rfl
@[simp] theorem memWrite_out (s : State) (a v : Half) : (s.memWrite a v).out = s.out := by
  unfold State.memWrite; split_ifs <;> rfl
@[simp] theorem memWrite_script (s : State) (a v : Half) : (s.memWrite a v).script = s.script := by
  unfold State.memWrite; split_ifs <;> rfl
@[simp] theorem memWrite_tickNo (s : State) (a v : Half) : (s.memWrite a v).tickNo = s.tickNo := by
  unfold State.memWrite; split_ifs <;> rfl
@[simp] theorem memWrite_bufEpoch (s : State) (a v : Half) : (s.memWrite a v).bufEpoch = s.bufEpoch := by
  unfold State.memWrite; split_ifs <;> rfl

end Sys2Proof.Laws
end

