-- ==== Sys2Proof/Laws/Ops.lean ====
section
/-! SUPPORT. For each shared operation, once, everything it can do; and the arithmetic of the operands. -/

namespace Sys2Proof.Laws

open Sys2Proof Sys2Proof.Machine

/-! ### Operands -/

theorem startLoad_toNat (half full : Half) : (startLoad half full).toNat = half.toNat + full.toNat := by
  have h1 := half.isLt
  have h2 := full.isLt
  simp only [startLoad, BitVec.toNat_add, BitVec.toNat_setWidth]
  omega

@[simp] theorem delayLoad_toNat (full : Half) : (delayLoad full).toNat = full.toNat := by
  have h := full.isLt
  simp only [delayLoad, BitVec.toNat_setWidth]
  omega

theorem dataBit_getLsbD (rx : Bool) (k : BitVec 3) (i : Nat) :
    (dataBit rx k).getLsbD i = (rx && decide (i = k.toNat)) := by
  have h : ∀ (rx : Bool) (k : Fin 8) (i : Fin 8),
      (dataBit rx (BitVec.ofFin k)).getLsbD i.val = (rx && decide (i.val = k.val)) := by decide
  by_cases hi : i < 8
  · exact h rx k.toFin ⟨i, hi⟩
  · have hk := k.isLt
    have hne : i ≠ k.toNat := by omega
    rw [BitVec.getLsbD_of_ge _ _ (by omega)]
    simp [hne]

theorem texp_iff (s : State) : s.texp = true ↔ s.timer.toNat ≤ 1 := by
  simp [State.texp, BitVec.le_def]

theorem last_iff (s : State) : s.last = true ↔ s.bitIdx = 7#3 := by
  simp [State.last]

/-- `WPTR + 1` modulo `CAPACITY` as a number (`42_stop_and_commit.md` R179). -/
theorem nextWptr_toNat (s : State) (h : s.wptr.toNat < s.capacity) :
    s.nextWptr.toNat = (s.wptr.toNat + 1) % s.capacity := by
  have ht := s.capacityTop.isLt
  unfold State.nextWptr State.capacity at *
  split
  · rename_i he
    rw [he, Nat.mod_self]; rfl
  · rename_i hne
    rw [Nat.mod_eq_of_lt (by omega), BitVec.toNat_add]
    show (s.wptr.toNat + 1) % 65536 = _
    omega

/-! ### Storing and appending -/

/-- What a store at `WPTR` answers. -/
theorem storeAtWptr_eq (s : State) (b : Byte) :
    s.storeAtWptr b =
      if s.wptr.toNat < s.capacity then
        .next { s with buf := s.buf.store s.wptr.toNat b, wptr := s.nextWptr }
      else .fault .bufferIndexOutOfRange := by
  unfold State.storeAtWptr
  simp only [inBuffer_iff]

/-- The result of the case "store" of `42_stop_and_commit.md` R178. -/
def stored (s : State) (b : Byte) : State :=
  { s with buf := s.buf.store s.wptr.toNat b, wptr := s.nextWptr, count := s.count + 1 }

/-- The result of the case "overwrite" of R178. -/
def overwritten (s : State) (b : Byte) : State :=
  State.raise { s with buf := s.buf.store s.wptr.toNat b, wptr := s.nextWptr } .bufferFullCondition

/-- Everything `Append` can do (R177, R178). -/
theorem append_cases (s : State) (b : Byte) :
    (s.count.toNat < s.capacity ∧ s.wptr.toNat < s.capacity ∧ s.append b = .next (stored s b)) ∨
    (s.capacity ≤ s.count.toNat ∧ s.ovfHalt = false ∧ s.wptr.toNat < s.capacity ∧
      s.append b = .next (overwritten s b)) ∨
    (s.capacity ≤ s.count.toNat ∧ s.ovfHalt = true ∧ s.append b = .next (s.raise .bufferFullCondition)) ∨
    (s.capacity ≤ s.wptr.toNat ∧ (s.count.toNat < s.capacity ∨ s.ovfHalt = false) ∧
      s.append b = .fault .bufferIndexOutOfRange) := by
  by_cases hr : s.count.toNat < s.capacity
  · have hroom : s.hasRoom = true := (hasRoom_iff s).mpr hr
    by_cases hw : s.wptr.toNat < s.capacity
    · exact .inl ⟨hr, hw, by simp [State.append, hroom, storeAtWptr_eq, hw, andThen, stored]⟩
    · exact .inr (.inr (.inr ⟨by omega, .inl hr, by simp [State.append, hroom, storeAtWptr_eq, hw, andThen]⟩))
  · have hroom : s.hasRoom = false := by
      rw [Bool.eq_false_iff]; exact fun h => hr ((hasRoom_iff s).mp h)
    cases hh : s.ovfHalt
    · by_cases hw : s.wptr.toNat < s.capacity
      · exact .inr (.inl ⟨by omega, rfl, hw,
          by simp [State.append, hroom, hh, storeAtWptr_eq, hw, andThen, overwritten]⟩)
      · exact .inr (.inr (.inr ⟨by omega, .inr rfl,
          by simp [State.append, hroom, hh, storeAtWptr_eq, hw, andThen]⟩))
    · exact .inr (.inr (.inl ⟨by omega, rfl, by simp [State.append, hroom, hh]⟩))

/-- What a commit adds to `Append`: back to IDLE, with the event `frame_done`. -/
def committed (t : State) : State := { t with seq := .idle, out := { t.out with frameDone := true } }

/-- Everything a commit can do. -/
theorem commit_cases (s : State) :
    (∃ t, s.append s.shreg = .next t ∧ s.commit = .next (committed t)) ∨
    (s.append s.shreg = .fault .bufferIndexOutOfRange ∧ s.commit = .fault .bufferIndexOutOfRange) := by
  rcases append_cases s s.shreg with ⟨-, -, h⟩ | ⟨-, -, -, h⟩ | ⟨-, -, h⟩ | ⟨-, -, h⟩
  · exact .inl ⟨_, h, by simp [State.commit, h, andThen, committed]⟩
  · exact .inl ⟨_, h, by simp [State.commit, h, andThen, committed]⟩
  · exact .inl ⟨_, h, by simp [State.commit, h, andThen, committed]⟩
  · exact .inr ⟨h, by simp [State.commit, h, andThen]⟩

/-! ### Bus commands -/

/-- What a bus command leaves unchanged: everything but the host's registers and `bus_rdata`. -/
def HostOnly (s t : State) : Prop :=
  t = { s with fullDelay := t.fullDelay, halfDelay := t.halfDelay, en := t.en, stop2 := t.stop2,
               ovfHalt := t.ovfHalt, out := { s.out with busRdata := t.out.busRdata } }

theorem busRead_hostOnly (s : State) (a : Half) : ∃ t, s.busRead a = .next t ∧ HostOnly s t := ⟨_, rfl, rfl⟩

theorem busIdle_hostOnly (s : State) : ∃ t, s.busIdle = .next t ∧ HostOnly s t := ⟨_, rfl, rfl⟩

theorem busWrite_hostOnly (s : State) (a v : Half) : ∃ t, s.busWrite a v = .next t ∧ HostOnly s t := by
  refine ⟨_, rfl, ?_⟩
  unfold State.memWrite
  split_ifs <;> rfl

/-- A bus command always answers a next state, and changes only the host's registers and `bus_rdata`
(`10_state.md` R52; `43_host_and_reset_ops.md` section 2). -/
theorem command_next (i : Instr) (h : i.isOperation = false) (s : State) :
    ∃ t, exec i s = .next t ∧ HostOnly s t := by
  cases i with
  | rst => cases h
  | idleStart => cases h
  | idlePoll => cases h
  | sampWait => cases h
  | sampBit => cases h
  | sampLast => cases h
  | stopWait => cases h
  | stopNext => cases h
  | stopDone1 => cases h
  | stopDone2 => cases h
  | busNop => exact busIdle_hostOnly s
  | wrFull wdata => exact busWrite_hostOnly s _ wdata
  | wrHalf wdata => exact busWrite_hostOnly s _ wdata
  | wrCtrl wdata => exact busWrite_hostOnly s _ wdata
  | wrIgn addr wdata => exact busIdle_hostOnly s
  | rdFull => exact busRead_hostOnly s _
  | rdHalf => exact busRead_hostOnly s _
  | rdCtrl => exact busRead_hostOnly s _
  | rdStatus => exact busRead_hostOnly s _
  | rdCount => exact busRead_hostOnly s _
  | rdWptr => exact busRead_hostOnly s _
  | rdShreg => exact busRead_hostOnly s _
  | rdTimerLo => exact busRead_hostOnly s _
  | rdTimerHi => exact busRead_hostOnly s _
  | rdCapacity => exact busRead_hostOnly s _
  | rdBuf index => exact busRead_hostOnly s _
  | rdRsvd addr => exact ⟨_, rfl, rfl⟩

/-- A property of both branches is a property of the choice. -/
theorem ite_holds {P : Instr → Prop} {c : Prop} [Decidable c] {x y : Instr} (hx : P x) (hy : P y) :
    P (if c then x else y) := by
  split <;> assumption

/-- What a bus word decodes to is a bus command. -/
theorem commandOf_isOperation (v e : Bool) (a d : Half) : (commandOf v e a d).isOperation = false := by
  unfold commandOf
  repeat' refine ite_holds (P := fun i => i.isOperation = false) ?_ ?_
  all_goals rfl

end Sys2Proof.Laws
end

