-- ==== Sys2Proof/Laws/PerInstr.lean ====
section
/-! SUPPORT. Laws stated once per instruction. -/

namespace Sys2Proof.Laws

open Sys2Proof Sys2Proof.Machine

/-- The mnemonic of the row that a word hits first. -/
def rowMnemonic : CodeWord → Option String
  | .T w => (tRows.find? (fun r => r.hits w)).map OpRow.mnemonic
  | .B w => (bRows.find? (fun r => r.hits w)).map OpRow.mnemonic

/-- Every bus row builds an instruction of its own name. -/
theorem bRow_build_mnemonic (w : BWord) : ∀ r ∈ bRows, (r.build w).mnemonic = r.mnemonic := by
  simp [bRows, Instr.mnemonic]

/-- A bus word hits the row named as the command it decodes to. -/
theorem rowMnemonic_bus {w : BWord} {i : Instr} (h : decodeB w = .ok i) : rowMnemonic (.B w) = some i.mnemonic := by
  unfold decodeB at h
  unfold rowMnemonic
  cases hf : bRows.find? (fun r => r.hits w) with
  | none => rw [hf] at h; cases h
  | some r =>
    rw [hf] at h; cases h
    simp only [hf, Option.map_some]
    exact congrArg some (bRow_build_mnemonic w r (List.mem_of_find?_eq_some hf)).symm

/-- The address is none of the listed ones below `n`. -/
theorem ne_of_le {addr : Half} {n : Nat} (h : n ≤ addr.toNat) (k : Half) (hk : k.toNat < n) : addr ≠ k :=
  fun e => by subst e; omega

/-- A write to any address but the three is ignored. -/
theorem commandOf_ignored {addr : Half} (h : ignoredWrite addr = true) (d : Half) :
    commandOf true true addr d = .wrIgn addr d := by
  simp only [ignoredWrite, decide_eq_true_eq, BitVec.le_def] at h
  have hn : ∀ k : Half, k.toNat < 3 → addr ≠ k := ne_of_le h
  simp [commandOf, hn 0#16 (by decide), hn 1#16 (by decide), hn 2#16 (by decide)]

/-- A read from the tenth address on is a read of the window or of a reserved address. -/
theorem commandOf_above {addr : Half} (h : 10 ≤ addr.toNat) (d : Half) :
    commandOf true false addr d =
      if 0x8000#16 ≤ addr then .rdBuf (windowIndex addr) else .rdRsvd addr := by
  have hn : ∀ k : Half, k.toNat < 10 → addr ≠ k := ne_of_le h
  simp [commandOf, hn 0#16 (by decide), hn 1#16 (by decide), hn 2#16 (by decide), hn 3#16 (by decide),
    hn 4#16 (by decide), hn 5#16 (by decide), hn 6#16 (by decide), hn 7#16 (by decide), hn 8#16 (by decide),
    hn 9#16 (by decide)]

theorem commandOf_reserved {addr : Half} (h : reservedRead addr = true) (d : Half) :
    commandOf true false addr d = .rdRsvd addr := by
  simp only [reservedRead, Bool.and_eq_true, decide_eq_true_eq, BitVec.le_def] at h
  rw [commandOf_above h.1, if_neg]
  rw [BitVec.le_def]
  exact Nat.not_le.mpr (Nat.lt_of_le_of_lt h.2 (by decide))

theorem commandOf_window (index : BitVec 15) (d : Half) :
    commandOf true false (windowAddr index) d = .rdBuf index := by
  have hw : 0x8000#16 ≤ windowAddr index := by
    rw [BitVec.le_def, windowAddr, BitVec.toNat_append]; exact Nat.left_le_or
  have hn : (0x8000#16).toNat ≤ (windowAddr index).toNat := by rwa [BitVec.le_def] at hw
  rw [commandOf_above (Nat.le_trans (by decide) hn), if_pos hw, windowIndex_windowAddr]

end Sys2Proof.Laws

namespace Sys2Proof.Laws.MnemonicRow

open Sys2Proof Sys2Proof.Laws

/-- The word of a well-formed instruction hits, in its table, the row with the instruction's own mnemonic. -/
def Statement (i : Instr) : Prop := i.wellFormed = true → rowMnemonic (encode i) = some i.mnemonic

theorem rst : Statement (.rst) := fun _ => by decide

theorem idleStart : Statement (.idleStart) := fun _ => by decide

theorem idlePoll (rx : Bool) : Statement (.idlePoll rx) := fun _ => by cases rx <;> decide

theorem sampWait (rx : Bool) : Statement (.sampWait rx) := fun _ => by cases rx <;> decide

theorem sampBit (rx : Bool) : Statement (.sampBit rx) := fun _ => by cases rx <;> decide

theorem sampLast (rx : Bool) : Statement (.sampLast rx) := fun _ => by cases rx <;> decide

theorem stopWait (rx : Bool) : Statement (.stopWait rx) := fun _ => by cases rx <;> decide

theorem stopNext (rx : Bool) : Statement (.stopNext rx) := fun _ => by cases rx <;> decide

theorem stopDone1 (rx : Bool) : Statement (.stopDone1 rx) := fun _ => by cases rx <;> decide

theorem stopDone2 (rx : Bool) : Statement (.stopDone2 rx) := fun _ => by cases rx <;> decide

theorem busNop : Statement (.busNop) := fun _ => rowMnemonic_bus (decodeB_bWord ..)

theorem wrFull (wdata : Half) : Statement (.wrFull wdata) := fun _ => rowMnemonic_bus (decodeB_bWord ..)

theorem wrHalf (wdata : Half) : Statement (.wrHalf wdata) := fun _ => rowMnemonic_bus (decodeB_bWord ..)

theorem wrCtrl (wdata : Half) : Statement (.wrCtrl wdata) := fun _ => rowMnemonic_bus (decodeB_bWord ..)

theorem wrIgn (addr wdata : Half) : Statement (.wrIgn addr wdata) :=
  fun h => rowMnemonic_bus ((decodeB_bWord ..).trans (congrArg _ (commandOf_ignored h wdata)))

theorem rdFull : Statement (.rdFull) := fun _ => rowMnemonic_bus (decodeB_bWord ..)

theorem rdHalf : Statement (.rdHalf) := fun _ => rowMnemonic_bus (decodeB_bWord ..)

theorem rdCtrl : Statement (.rdCtrl) := fun _ => rowMnemonic_bus (decodeB_bWord ..)

theorem rdStatus : Statement (.rdStatus) := fun _ => rowMnemonic_bus (decodeB_bWord ..)

theorem rdCount : Statement (.rdCount) := fun _ => rowMnemonic_bus (decodeB_bWord ..)

theorem rdWptr : Statement (.rdWptr) := fun _ => rowMnemonic_bus (decodeB_bWord ..)

theorem rdShreg : Statement (.rdShreg) := fun _ => rowMnemonic_bus (decodeB_bWord ..)

theorem rdTimerLo : Statement (.rdTimerLo) := fun _ => rowMnemonic_bus (decodeB_bWord ..)

theorem rdTimerHi : Statement (.rdTimerHi) := fun _ => rowMnemonic_bus (decodeB_bWord ..)

theorem rdCapacity : Statement (.rdCapacity) := fun _ => rowMnemonic_bus (decodeB_bWord ..)

theorem rdBuf (index : BitVec 15) : Statement (.rdBuf index) :=
  fun _ => rowMnemonic_bus ((decodeB_bWord ..).trans (congrArg _ (commandOf_window index 0)))

theorem rdRsvd (addr : Half) : Statement (.rdRsvd addr) :=
  fun h => rowMnemonic_bus ((decodeB_bWord ..).trans (congrArg _ (commandOf_reserved h 0)))

end Sys2Proof.Laws.MnemonicRow
end

