-- ==== Sys2Proof/Laws/Script.lean ====
section
/-! SUPPORT. A script that runs is a run of the ticks it expands to. -/

namespace Sys2Proof.Laws

open Sys2Proof Sys2Proof.Machine

/-- Ticks run one list after the other. -/
theorem runTicks_append (a b : List Inputs) (s : State) :
    runTicks s (a ++ b) = (runTicks s a).bind fun t => runTicks t b := by
  induction a generalizing s with
  | nil => rfl
  | cons inp rest ih =>
    simp only [List.cons_append, runTicks]
    cases step (s.withInput inp) with
    | next t => exact ih t
    | fault e => rfl
    | refused e => rfl

/-- A script that ends in `t`, all its assertions true, is a run of its ticks that ends in `t`. -/
theorem runTicks_of_runScriptFrom {L : Bool} {s t : State} {script : List Stmt}
    (h : runScriptFrom L s script = some t) : runTicks s (expandFrom L script) = some t := by
  induction script generalizing L s with
  | nil => exact h
  | cons st rest ih =>
    rw [expandFrom, runTicks_append]
    unfold runScriptFrom at h
    cases hu : runTicks s (st.ticks L) with
    | none => rw [hu] at h; cases h
    | some u =>
      simp only [hu] at h
      split at h
      · exact ih h
      · cases h

theorem runTicks_of_runScript {s t : State} {script : List Stmt} (h : runScript s script = some t) :
    runTicks s (expand script) = some t := runTicks_of_runScriptFrom h

end Sys2Proof.Laws
end

