-- ==== Sys2Proof/Laws/Step.lean ====
section
/-! SUPPORT. What a tick and a step can do, and how the inputs of the coming ticks shift. -/

namespace Sys2Proof.Laws

open Sys2Proof Sys2Proof.Machine

/-- The operation that the next tick of `s` executes, given its inputs. -/
abbrev opOf (s : State) (inp : Inputs) : Instr :=
  operationOf inp.rst s.startOk (s.fall inp.rx) s.seq s.texp s.last s.stopCnt s.stop2 inp.rx

/-- The command that a tick's inputs present. -/
abbrev cmdOf (inp : Inputs) : Instr := commandOf inp.busValid inp.busWe inp.busAddr inp.busWdata

theorem operationOf_ne_rst (so f : Bool) (q : SeqState) (te la : Bool) (sc : BitVec 1) (s2 rx : Bool) :
    operationOf false so f q te la sc s2 rx ≠ .rst := by
  cases q <;> revert so f te la sc s2 rx <;> decide

/-- A tick with `rst` = 1 is `RST` alone; any other is the join of its operation and its command. -/
theorem tick_eq (inp : Inputs) (s : State) :
    tick inp s = if inp.rst then exec .rst s else joinTick (exec (opOf s inp) s) (exec (cmdOf inp) s) := by
  unfold tick
  rw [decodeT_selector, decodeB_busWord]
  cases hr : inp.rst
  · have hne := operationOf_ne_rst s.startOk (s.fall inp.rx) s.seq s.texp s.last s.stopCnt s.stop2 inp.rx
    simp only [opOf, hr, cmdOf]
    generalize operationOf _ _ _ _ _ _ _ _ _ = op at hne ⊢
    cases op <;> first | exact absurd rfl hne | rfl
  · rfl

/-- A step is a tick with the inputs it is given. -/
theorem step_eq (s : State) :
    step s = if s.input.rst then exec .rst s.consumed
      else joinTick (exec (opOf s.consumed s.input) s.consumed) (exec (cmdOf s.input) s.consumed) :=
  tick_eq ..

/-- If the operation answers a next state, so does the tick: the operation's state with the command's host
registers and read data. -/
theorem joinTick_next {a b : State} :
    joinTick (.next a) (.next b) =
      .next { a with
        fullDelay := b.fullDelay, halfDelay := b.halfDelay, en := b.en, stop2 := b.stop2, ovfHalt := b.ovfHalt
        out := { a.out with busRdata := b.out.busRdata } } := rfl

/-- Everything a step can do: a step that answers a next state is an `RST`, or an operation that answers a next
state joined with a command that answers one. -/
theorem step_cases {s t : State} (h : step s = .next t) :
    (s.input.rst = true ∧ exec .rst s.consumed = .next t) ∨
    (s.input.rst = false ∧ ∃ a b, exec (opOf s.consumed s.input) s.consumed = .next a ∧
      exec (cmdOf s.input) s.consumed = .next b ∧ joinTick (.next a) (.next b) = .next t) := by
  rw [step_eq] at h
  cases hr : s.input.rst
  · rw [hr] at h
    obtain ⟨b, hb, -⟩ := command_next (cmdOf s.input) (commandOf_isOperation ..) s.consumed
    cases ha : exec (opOf s.consumed s.input) s.consumed with
    | next a => rw [ha, hb] at h; exact .inr ⟨rfl, a, b, rfl, hb, h⟩
    | fault e => rw [ha, hb] at h; cases h
    | refused e => rw [ha, hb] at h; cases h
  · rw [hr] at h; exact .inl ⟨rfl, h⟩

/-- The inputs of a later tick are seen from the next state one tick nearer. -/
@[simp] theorem inputAt_consumed (s : State) (j : Nat) : s.consumed.inputAt j = s.inputAt (j + 1) := by
  unfold State.inputAt
  simp only [consumed_script, consumed_tickNo, List.getElem?_tail]
  rw [show s.tickNo + 1 + j = s.tickNo + (j + 1) by omega]

/-- The inputs to come depend only on the script and the tick number. -/
theorem inputAt_congr {s t : State} (h : t.script = s.script) (hn : t.tickNo = s.tickNo) (j : Nat) :
    t.inputAt j = s.inputAt j := by
  simp only [State.inputAt, h, hn]

/-- The next tick's inputs are the ones placed. -/
@[simp] theorem input_withInput (s : State) (inp : Inputs) : (s.withInput inp).input = inp := rfl

/-- A run of `n + 1` ticks is a step and then a run of `n`. -/
theorem after_succ (n : Nat) (s : State) :
    after (n + 1) s = match step s with
      | .next t => after n t
      | .fault e => .fault e
      | .refused e => .refused e := by
  have h : Sys2Proof.core.step s = step s := rfl
  simp only [after, Host.Core.run, h]
  cases step s <;> rfl

/-- What `Append` never touches, in every case of R178. -/
theorem append_frame {s t : State} {b : Byte} (h : s.append b = .next t) :
    SameFrame s t ∧ t.rxPrev = s.rxPrev ∧ t.frameValid = s.frameValid ∧ t.framingError = s.framingError ∧
    SameConfig s t ∧ SameEnvironment s t ∧ t.out.busRdata = s.out.busRdata ∧
    t.out.framingError = s.out.framingError ∧ t.out.frameDone = s.out.frameDone := by
  rcases append_cases s b with ⟨-, -, e⟩ | ⟨-, -, -, e⟩ | ⟨-, -, e⟩ | ⟨-, -, e⟩ <;> rw [e] at h <;> cases h <;>
    exact ⟨⟨rfl, rfl, rfl, rfl, rfl⟩, rfl, rfl, rfl, ⟨rfl, rfl, rfl, rfl, rfl, rfl⟩, ⟨rfl, rfl, rfl⟩, rfl, rfl, rfl⟩

/-- A commit that answers a next state is an `Append` that does. -/
theorem commit_next {s t : State} (h : s.commit = .next t) :
    ∃ u, s.append s.shreg = .next u ∧ t = committed u := by
  rcases commit_cases s with ⟨u, ha, e⟩ | ⟨-, e⟩
  · rw [e] at h; cases h; exact ⟨u, ha, rfl⟩
  · rw [e] at h; cases h

/-- The operation of a tick that is not RST, by the conditions of its row (`30_encoding.md` R92): what holds of the
nine operations under their conditions holds of the operation selected. -/
theorem operation_cases (s : State) (rx : Bool) (P : Instr → Prop)
    (start : s.seq = .idle → s.startOk = true → s.rxPrev = true → rx = false → P .idleStart)
    (poll : s.seq = .idle → ¬ (s.startOk = true ∧ s.rxPrev = true ∧ rx = false) → P (.idlePoll rx))
    (sampWait : s.seq = .sampling → 2 ≤ s.timer.toNat → P (.sampWait rx))
    (sampBit : s.seq = .sampling → s.timer.toNat ≤ 1 → s.bitIdx ≠ 7 → P (.sampBit rx))
    (sampLast : s.seq = .sampling → s.timer.toNat ≤ 1 → s.bitIdx = 7 → P (.sampLast rx))
    (stopWait : s.seq = .stopWait → 2 ≤ s.timer.toNat → P (.stopWait rx))
    (stopNext : s.seq = .stopWait → s.timer.toNat ≤ 1 → s.stopCnt = 0 → s.stop2 = true → P (.stopNext rx))
    (done1 : s.seq = .stopWait → s.timer.toNat ≤ 1 → s.stopCnt = 0 → s.stop2 = false → P (.stopDone1 rx))
    (done2 : s.seq = .stopWait → s.timer.toNat ≤ 1 → s.stopCnt = 1 → P (.stopDone2 rx)) :
    P (operationOf false s.startOk (s.fall rx) s.seq s.texp s.last s.stopCnt s.stop2 rx) := by
  have waits : s.texp = false → 2 ≤ s.timer.toNat := fun h => by
    by_contra hc
    rw [(texp_iff s).mpr (by omega)] at h; cases h
  have zero : ∀ x : BitVec 1, x ≠ 1 → x = 0 := by decide
  cases hq : s.seq
  · by_cases hc : s.startOk = true ∧ s.rxPrev = true ∧ rx = false
    · have := start hq hc.1 hc.2.1 hc.2.2
      simpa [operationOf, State.fall, hc.1, hc.2.1, hc.2.2] using this
    · have hn : (s.startOk && s.fall rx) = false := by
        rw [Bool.eq_false_iff]; intro he
        simp only [State.fall, Bool.and_eq_true, Bool.not_eq_true'] at he
        exact hc he
      simpa [operationOf, hn] using poll hq hc
  · cases hx : s.texp
    · simpa [operationOf] using sampWait hq (waits hx)
    · cases hl : s.last
      · have hb : s.bitIdx ≠ 7 := fun e => by rw [(last_iff s).mpr e] at hl; cases hl
        simpa [operationOf] using sampBit hq ((texp_iff s).mp hx) hb
      · simpa [operationOf] using sampLast hq ((texp_iff s).mp hx) ((last_iff s).mp hl)
  · cases hx : s.texp
    · simpa [operationOf] using stopWait hq (waits hx)
    · by_cases h1 : s.stopCnt = 1#1
      · simpa [operationOf, h1] using done2 hq ((texp_iff s).mp hx) h1
      · cases h2 : s.stop2
        · simpa [operationOf, h1] using done1 hq ((texp_iff s).mp hx) (zero _ h1) h2
        · simpa [operationOf, h1] using stopNext hq ((texp_iff s).mp hx) (zero _ h1) h2

end Sys2Proof.Laws
end

