-- ==== Sys2Proof/Tests/Slice0.lean ====
section
/-! SUPPORT. Checks of the model on the spec's own words and vectors, and a state for the hypotheses of every
statement. Ids such as S10 are those of `95_test_vectors.md` section 2; words are those of its section 2.6 or are
written out from the rows of `30_encoding.md` R92 and R96. -/

namespace Sys2Proof.Tests

open Sys2Proof Sys2Proof.Machine

/-! ### WellFormed: an ill-formed term for each check -/

theorem test_wf_refuses_ignored_write_of_a_control_register :
    (Instr.wrIgn 0x0000#16 5).wellFormed = false ∧ (Instr.wrIgn 0x0001#16 5).wellFormed = false ∧
    (Instr.wrIgn 0x0002#16 5).wellFormed = false := by decide

theorem test_wf_refuses_reserved_read_of_a_listed_address :
    (Instr.rdRsvd 0x0000#16).wellFormed = false ∧ (Instr.rdRsvd 0x0009#16).wellFormed = false ∧
    (Instr.rdRsvd 0x8000#16).wellFormed = false ∧ (Instr.rdRsvd 0xFFFF#16).wellFormed = false := by decide

theorem test_wf_accepts_boundary_addresses :
    (Instr.wrIgn 0x0003#16 5).wellFormed = true ∧ (Instr.wrIgn 0xFFFF#16 5).wellFormed = true ∧
    (Instr.rdRsvd 0x000A#16).wellFormed = true ∧ (Instr.rdRsvd 0x7FFF#16).wellFormed = true := by decide

/-! ### Decode: a word for every constructor -/

theorem test_decode_rst : decodeTableWord 16 0x3FF = some .rst := by decide
theorem test_decode_idleStart : decodeTableWord 16 0x190 = some .idleStart := by decide
theorem test_decode_idlePoll :
    decodeTableWord 16 0x110 = some (.idlePoll false) ∧ decodeTableWord 16 0x090 = some (.idlePoll false) ∧
    decodeTableWord 16 0x111 = some (.idlePoll true) := by decide
theorem test_decode_sampWait : decodeTableWord 16 0x02F = some (.sampWait true) := by decide
theorem test_decode_sampBit : decodeTableWord 16 0x031 = some (.sampBit true) := by decide
theorem test_decode_sampLast : decodeTableWord 16 0x03E = some (.sampLast false) := by decide
theorem test_decode_stopWait : decodeTableWord 16 0x1C0 = some (.stopWait false) := by decide
theorem test_decode_stopNext : decodeTableWord 16 0x05A = some (.stopNext false) := by decide
theorem test_decode_stopDone1 : decodeTableWord 16 0x051 = some (.stopDone1 true) := by decide
theorem test_decode_stopDone2 :
    decodeTableWord 16 0x054 = some (.stopDone2 false) ∧ decodeTableWord 16 0x056 = some (.stopDone2 false) := by
  decide
theorem test_decode_busNop : decodeTableWord 40 0x1FFFFFFFF = some .busNop := by decide
theorem test_decode_wrFull : decodeTableWord 40 0x300000008 = some (.wrFull 8) := by decide
theorem test_decode_wrHalf : decodeTableWord 40 0x300010004 = some (.wrHalf 4) := by decide
theorem test_decode_wrCtrl : decodeTableWord 40 0x300020001 = some (.wrCtrl 1) := by decide
theorem test_decode_wrIgn :
    decodeTableWord 40 0x300030000 = some (.wrIgn 3 0) ∧
    decodeTableWord 40 0x3800000FF = some (.wrIgn 0x8000 0xFF) := by decide
theorem test_decode_rdFull : decodeTableWord 40 0x200000000 = some .rdFull := by decide
theorem test_decode_rdHalf : decodeTableWord 40 0x200010000 = some .rdHalf := by decide
theorem test_decode_rdCtrl : decodeTableWord 40 0x200020000 = some .rdCtrl := by decide
theorem test_decode_rdStatus : decodeTableWord 40 0x20003ABCD = some .rdStatus := by decide
theorem test_decode_rdCount : decodeTableWord 40 0x200040000 = some .rdCount := by decide
theorem test_decode_rdWptr : decodeTableWord 40 0x200050000 = some .rdWptr := by decide
theorem test_decode_rdShreg : decodeTableWord 40 0x200060000 = some .rdShreg := by decide
theorem test_decode_rdTimerLo : decodeTableWord 40 0x200070000 = some .rdTimerLo := by decide
theorem test_decode_rdTimerHi : decodeTableWord 40 0x200080000 = some .rdTimerHi := by decide
theorem test_decode_rdCapacity : decodeTableWord 40 0x200090000 = some .rdCapacity := by decide
theorem test_decode_rdBuf :
    decodeTableWord 40 0x280000000 = some (.rdBuf 0) ∧ decodeTableWord 40 0x2FFFF0000 = some (.rdBuf 0x7FFF) := by
  decide
theorem test_decode_rdRsvd : decodeTableWord 40 0x2000A0000 = some (.rdRsvd 0x000A) := by decide

theorem test_decode_rejects_by_name :
    decodeBits 16 0x060 = .error .reservedState ∧ decodeBits 16 0x400 = .error .tooWide ∧
    decodeBits 40 0x400000000 = .error .tooWide := by decide

theorem test_encode_bus_words :
    encode (.wrFull 8) = .B 0x300000008#34 ∧ encode (.rdBuf 0x7FFF) = .B 0x2FFFF0000#34 ∧
    encode (.stopDone1 true) = .T 0x051#10 := by decide

/-! ### One tick -/

/-- `CAPACITY` = 4, `FULL_DELAY` = 8, `HALF_DELAY` = 4, all else as after reset. -/
def base : State := { State.resetWith 3 with fullDelay := 8, halfDelay := 4 }

/-- A bus write and a bus read in the same tick as the line level `rx`. -/
def writeTick (rx : Bool) (a d : Half) : Inputs :=
  { lineTick rx with busValid := true, busWe := true, busAddr := a, busWdata := d }

def readTick (rx : Bool) (a : Half) : Inputs := { lineTick rx with busValid := true, busAddr := a }

/-- The tick selects the word `w` and its next state has the property. -/
def ticks (s : State) (inp : Inputs) (w : TWord) (p : State → Bool) : Bool :=
  selector s inp == w && (match tick inp s with
    | .next t => p t
    | .fault _ => false
    | .refused _ => false)

/-- The event vector of R100, `buffer_full`, `framing_error`, `frame_done`. -/
def ev (t : State) : Bool × Bool × Bool := (t.out.bufferFull, t.out.framingError, t.out.frameDone)

/-- The state H1 starts from. -/
def midFrame : State :=
  { base with seq := .sampling, timer := 5, bitIdx := 3, shreg := 0x05, rxPrev := true, en := true, count := 2
              wptr := 2, buf := [(0, 1), (1, 2)] }

/-- The end state of program P1. -/
def endOfP1 : State :=
  { base with timer := 1, shreg := 0x41, rxPrev := true, frameValid := true, count := 1, wptr := 1
              buf := [(0, 0x41)], en := true }

/-- A state about to execute STOP.DONE1 with `SHREG` = 0x77, as in section 2.4. -/
def committing (count wptr : Half) (buf : Memory) (full halt : Bool) : State :=
  { base with seq := .stopWait, timer := 1, shreg := 0x77, count := count, wptr := wptr, buf := buf
              bufferFull := full, ovfHalt := halt }

/-- The four written entries of A2 to A5. -/
def fullBuf : Memory := [(0, 1), (1, 2), (2, 3), (3, 4)]

theorem test_rst_H1 :
    ticks midFrame { writeTick true 0x0000 9 with rst := true } 0x321
      (fun t => t == { State.resetWith 3 with bufEpoch := 1 }) = true := by decide

theorem test_idleStart_I2 :
    ticks { base with en := true, rxPrev := true } (lineTick false) 0x190
      (fun t => t == { base with en := true, seq := .sampling, timer := 12 }) = true := by decide
theorem test_idleStart_I8 :
    ticks { base with en := true, rxPrev := true, fullDelay := 0xFFFF, halfDelay := 0xFFFF } (lineTick false) 0x190
      (fun t => t.timer == 0x1FFFE#17) = true := by decide

theorem test_idlePoll_I6_halted :
    ticks { base with en := true, ovfHalt := true, bufferFull := true, count := 4, rxPrev := true } (lineTick false)
      0x090 (fun t => t.seq == .idle && t.rxPrev == false && ev t == (false, false, false)) = true := by decide
theorem test_idlePoll_H10_enable_at_the_edge :
    ticks { base with rxPrev := true } (writeTick false 0x0002 1) 0x090
      (fun t => t.seq == .idle && t.rxPrev == false && t.en) = true := by decide

theorem test_sampWait_S1 :
    ticks { base with seq := .sampling, timer := 12 } (lineTick true) 0x021
      (fun t => t == { base with seq := .sampling, timer := 11, rxPrev := true }) = true := by decide

theorem test_sampBit_S4 :
    ticks { base with seq := .sampling, timer := 1, bitIdx := 3, shreg := 0x05 } (lineTick true) 0x031
      (fun t => t.shreg == 0x0D && t.bitIdx == 4 && t.timer == 8) = true := by decide
theorem test_sampBit_S10_old_delay_is_loaded :
    ticks { base with seq := .sampling, timer := 1 } (writeTick true 0x0000 20) 0x031
      (fun t => t.timer == 8 && t.fullDelay == 20 && t.shreg == 0x01 && t.bitIdx == 1) = true := by decide

theorem test_sampLast_S7 :
    ticks { base with seq := .sampling, timer := 1, bitIdx := 7, shreg := 0x7F } (lineTick true) 0x039
      (fun t => t == { base with seq := .stopWait, timer := 8, shreg := 0xFF, rxPrev := true }) = true := by decide

theorem test_stopWait_T1 :
    ticks { base with seq := .stopWait, timer := 8, shreg := 0x41 } (lineTick true) 0x041
      (fun t => t.timer == 7 && t.seq == .stopWait && t.shreg == 0x41) = true := by decide

theorem test_stopNext_T4 :
    ticks { base with seq := .stopWait, timer := 1, stop2 := true, shreg := 0x41 } (lineTick true) 0x053
      (fun t => t.frameValid && !t.framingError && t.stopCnt == 1 && t.timer == 8 && t.seq == .stopWait
        && t.count == 0 && ev t == (false, false, false)) = true := by decide
theorem test_stopNext_T5 :
    ticks { base with seq := .stopWait, timer := 1, stop2 := true, shreg := 0x41 } (lineTick false) 0x052
      (fun t => !t.frameValid && t.framingError && t.stopCnt == 1 && t.timer == 8
        && ev t == (false, true, false)) = true := by decide

theorem test_stopDone1_A3_drop :
    ticks (committing 4 0 fullBuf false true) (lineTick true) 0x051
      (fun t => t.buf == fullBuf && t.count == 4 && t.wptr == 0 && t.bufferFull && t.seq == .idle && !t.startOk
        && ev t == (true, false, true)) = true := by decide
theorem test_stopDone1_A5_both_conditions :
    ticks (committing 4 2 fullBuf true false) (lineTick false) 0x050
      (fun t => t.buf == [(0, 1), (1, 2), (2, 0x77), (3, 4)] && t.count == 4 && t.wptr == 3 && t.bufferFull
        && !t.frameValid && t.framingError && ev t == (true, true, true)) = true := by decide

theorem test_stopDone2_T6 :
    ticks { base with seq := .stopWait, timer := 1, stopCnt := 1, stop2 := true, frameValid := true, shreg := 0x5A
                      count := 1, wptr := 1, buf := [(0, 0x41)] } (lineTick false) 0x056
      (fun t => t.buf == [(0, 0x41), (1, 0x5A)] && t.count == 2 && t.wptr == 2 && t.seq == .idle && t.frameValid
        && !t.framingError && !t.rxPrev && ev t == (false, false, true)) = true := by decide
theorem test_stopDone2_last_entry_with_capacity_3 :
    ticks { committing 2 2 [(0, 1), (1, 2)] false false with stopCnt := 1, capacityTop := 2 } (lineTick true) 0x055
      (fun t => t.buf == [(0, 1), (1, 2), (2, 0x77)] && t.count == 3 && t.wptr == 0 && !t.bufferFull) = true := by
  decide

/-- The instruction answers this next state. -/
def gives (i : Instr) (s t : State) : Bool :=
  match exec i s with
  | .next u => u == t
  | .fault _ => false
  | .refused _ => false

theorem test_busNop_H11 : gives .busNop endOfP1 endOfP1 = true := by decide
theorem test_wrHalf : gives (.wrHalf 9) base { base with halfDelay := 9 } = true := by decide
theorem test_wrCtrl_H6 :
    gives (.wrCtrl 0xFFFF) base { base with en := true, stop2 := true, ovfHalt := true } = true := by decide
theorem test_wrIgn_H7_H8 :
    gives (.wrIgn 0x8000 0x00FF) endOfP1 endOfP1 = true ∧ gives (.wrIgn 0x0003 0) endOfP1 endOfP1 = true := by
  decide

/-- What a read command puts on `bus_rdata`. -/
def reads (i : Instr) (s : State) (v : Half) : Bool :=
  gives i s { s with out := { s.out with busRdata := v } }

theorem test_rdFull_H3 : reads .rdFull endOfP1 0x0008 = true := by decide
theorem test_rdHalf_H3 : reads .rdHalf endOfP1 0x0004 = true := by decide
theorem test_rdCtrl_H3 : reads .rdCtrl endOfP1 0x0001 = true := by decide
theorem test_rdStatus_H3 : reads .rdStatus endOfP1 0x0024 = true := by decide
theorem test_rdStatus_H2 : reads .rdStatus midFrame 0x01A1 = true := by decide
theorem test_rdCount_H3 : reads .rdCount endOfP1 0x0001 = true := by decide
theorem test_rdWptr_H3 : reads .rdWptr endOfP1 0x0001 = true := by decide
theorem test_rdShreg_H3 : reads .rdShreg endOfP1 0x0041 = true := by decide
theorem test_rdTimerLo_H3 : reads .rdTimerLo { endOfP1 with timer := 0x1FFFE } 0xFFFE = true := by decide
theorem test_rdTimerHi_H3 : reads .rdTimerHi { endOfP1 with timer := 0x1FFFE } 0x0001 = true := by decide
theorem test_rdCapacity_H3 : reads .rdCapacity endOfP1 0x0004 = true := by decide
theorem test_rdBuf_H4 :
    reads (.rdBuf 0) endOfP1 0x0041 = true ∧ reads (.rdBuf 4) endOfP1 0 = true ∧
    reads (.rdBuf 0x7FFF) endOfP1 0 = true := by decide
theorem test_rdRsvd_H5 : reads (.rdRsvd 0x1234) endOfP1 0 = true := by decide
theorem test_read_H9_before_the_commit :
    ticks (committing 0 0 [] false false) (readTick true 0x0004) 0x051
      (fun t => t.count == 1 && t.out.busRdata == 0) = true := by decide

/-- What the step of a state answers has the property. -/
def steps (s : State) (p : State → Bool) : Bool :=
  match step s with
  | .next t => p t
  | .fault _ => false
  | .refused _ => false

theorem test_withFetchWord_runs_a_bus_command :
    steps (State.reset.withFetchWord 40 0x300020007)
      (fun t => t.en && t.stop2 && t.ovfHalt && t.seq == .idle && t.count == 0) = true := by decide
theorem test_withFetchWord_runs_an_operation :
    steps (State.reset.withFetchWord 16 0x051) (fun t => t.seq == .idle && t.frameValid && t.count == 1) = true := by
  decide

/-! ### Scripts -/

/-- The words that R108 prints for L = 1, and those of a write and a read after the line went LOW. -/
theorem test_script_words :
    (expand [.reset, .config 8 4 1, .line [true, false], .wr 0x0002 1, .rd 0x0004]).map Inputs.toWord =
      [0xC00000000#36, 0x700000008#36, 0x700010004#36, 0x700020001#36, 0x400000000#36, 0x000000000#36,
       0x300020001#36, 0x200040000#36] := by decide

/-- The example of R109, and a LOW stop bit. -/
theorem test_script_frames :
    (Stmt.frame 0x41 2).lineBits = [false, false, true, true, false, false, false, false, false, false, false, false,
      false, false, true, true, false, false, true, true] ∧
    (Stmt.frameX 0x41 1 false).lineBits = [false, true, false, false, false, false, false, true, false, false] := by
  decide

theorem test_script_expect_names_the_control_bits :
    (runScript base [.wr 0x0002 5, .expect .CTRL_EN 1, .expect .CTRL_STOP2 0, .expect .CTRL_OVF_HALT 1,
      .expect .CTRL 5, .expect .RX_PREV 1]).isSome = true ∧
    runScript base [.wr 0x0002 5, .expect .CTRL_STOP2 1] = none := by decide

/-! ### A state for the hypotheses of every statement

A statement with no hypothesis but its bound variables needs none. -/

/-- `s` with the inputs of its coming ticks. -/
def scripted (s : State) (script : List Inputs) : State := { s with script := script }

/-- A receiver in IDLE, enabled, that saw HIGH at the last tick. -/
def ready (F H : Half) (script : List Inputs) : State :=
  { base with en := true, rxPrev := true, fullDelay := F, halfDelay := H, script := script }

theorem witness_DecodeOfEncodeIsIdentity :
    (Instr.wrIgn 0x0003#16 0xFFFF).wellFormed = true ∧ (Instr.rdRsvd 0x000A#16).wellFormed = true ∧
    (Instr.rdRsvd 0x7FFF#16).wellFormed = true ∧ (Instr.rdBuf 0x7FFF#15).wellFormed = true := by decide

theorem witness_OnlyStartAndPollRowsOverlap :
    ∃ a ∈ tRows, ∃ b ∈ tRows, a.hits 0x190#10 = true ∧ b.hits 0x190#10 = true ∧ a.mnemonic = "IDLE.START" ∧
      b.mnemonic = "IDLE.POLL" := by decide

/-- The start, and each way not to start: the pin, no HIGH before, not enabled, halted. -/
theorem witness_StartSelectedExactlyOnAllowedFall :
    decodeT (selector (ready 8 4 []) (lineTick false)) = .ok .idleStart ∧
    decodeT (selector (ready 8 4 []) (lineTick true)) = .ok (.idlePoll true) ∧
    decodeT (selector { ready 8 4 [] with rxPrev := false } (lineTick false)) = .ok (.idlePoll false) ∧
    decodeT (selector { ready 8 4 [] with en := false } (lineTick false)) = .ok (.idlePoll false) ∧
    decodeT (selector { ready 8 4 [] with bufferFull := true, ovfHalt := true } (lineTick false))
      = .ok (.idlePoll false) := ⟨by rfl, by rfl, by rfl, by rfl, by rfl⟩

/-- Each clause of the selection, at `TIMER` 2 and 1 and 0. -/
theorem witness_SelectionOutsideIdle :
    decodeT (selector { base with seq := .sampling, timer := 2 } (lineTick true)) = .ok (.sampWait true) ∧
    decodeT (selector { base with seq := .sampling, timer := 1, bitIdx := 6 } (lineTick true)) = .ok (.sampBit true) ∧
    decodeT (selector { base with seq := .sampling, bitIdx := 7 } (lineTick true)) = .ok (.sampLast true) ∧
    decodeT (selector { base with seq := .stopWait, timer := 2 } (lineTick true)) = .ok (.stopWait true) ∧
    decodeT (selector { base with seq := .stopWait, timer := 1, stopCnt := 1 } (lineTick true))
      = .ok (.stopDone2 true) ∧
    decodeT (selector { base with seq := .stopWait, stop2 := true } (lineTick true)) = .ok (.stopNext true) ∧
    decodeT (selector { base with seq := .stopWait, timer := 1 } (lineTick true)) = .ok (.stopDone1 true) :=
  ⟨by rfl, by rfl, by rfl, by rfl, by rfl, by rfl, by rfl⟩

/-- The three clauses: `RST`; an operation and a command that both complete; an operation that faults. -/
theorem witness_StepRunsDecodedOperationAndCommand :
    (let s := scripted base [{ lineTick true with rst := true }]
     decodeT (selector s.consumed s.input) = .ok .rst ∧ decodeB s.input.busWord = .ok .busNop) ∧
    (let s := scripted (committing 0 0 [] false false) [readTick true 0x0004]
     decodeT (selector s.consumed s.input) = .ok (.stopDone1 true) ∧ decodeB s.input.busWord = .ok .rdCount ∧
     (∃ a, exec (.stopDone1 true) s.consumed = .next a) ∧ ∃ b, exec .rdCount s.consumed = .next b) ∧
    (let s := scripted (committing 0 4 [] false false) [lineTick true]
     decodeT (selector s.consumed s.input) = .ok (.stopDone1 true) ∧ decodeB s.input.busWord = .ok .busNop ∧
     exec (.stopDone1 true) s.consumed = .fault .bufferIndexOutOfRange) :=
  ⟨⟨by rfl, by rfl⟩, ⟨by rfl, by rfl, ⟨_, rfl⟩, ⟨_, rfl⟩⟩, by rfl, by rfl, by rfl⟩

theorem bufferInv_committing : BufferInv (committing 2 2 [(0, 1), (1, 2)] false false) where
  count_le := by decide
  wptr_lt := by decide
  filling := by decide
  full := by decide
  canonical := by decide
  written := by
    intro i
    match i with
    | 0 => decide
    | 1 => decide
    | n + 2 => simp [committing, Memory.entry]

theorem bufferInv_full : BufferInv (committing 4 2 fullBuf true false) where
  count_le := by decide
  wptr_lt := by decide
  filling := by decide
  full := by decide
  canonical := by decide
  written := by
    intro i
    match i with
    | 0 => decide
    | 1 => decide
    | 2 => decide
    | 3 => decide
    | n + 4 => simp [committing, fullBuf, Memory.entry]

theorem bufferInv_ready (F H : Half) (script : List Inputs) : BufferInv (ready F H script) where
  count_le := Nat.zero_le _
  wptr_lt := Nat.zero_lt_succ _
  filling := fun _ => ⟨rfl, rfl⟩
  full := fun h => by cases h
  canonical := List.Pairwise.nil
  written := by
    intro i
    change (false = true) ↔ i < 0
    simp

theorem witness_StepNeverStopsUnderBufferInv :
    BufferInv (committing 2 2 [(0, 1), (1, 2)] false false) ∧ BufferInv (committing 4 2 fullBuf true false) :=
  ⟨bufferInv_committing, bufferInv_full⟩

theorem witness_StepKeepsBufferInv :
    BufferInv (scripted (committing 4 2 fullBuf true false) [lineTick true]) ∧
    ∃ t, step (scripted (committing 4 2 fullBuf true false) [lineTick true]) = .next t :=
  ⟨⟨bufferInv_full.1, bufferInv_full.2, bufferInv_full.3, bufferInv_full.4, bufferInv_full.5, bufferInv_full.6⟩,
    _, rfl⟩

theorem witness_InvariantsHoldFromAnyResetOn :
    (scripted (committing 9 7 fullBuf true true) [{ lineTick true with rst := true }]).input.rst = true := rfl

/-- A frame with three data bits sampled, and one after its first stop delay. -/
theorem witness_StepKeepsSequencerInv :
    SequencerInv (scripted midFrame [lineTick true]) ∧
    (∃ t, step (scripted midFrame [lineTick true]) = .next t) ∧
    SequencerInv { base with seq := .stopWait, timer := 1, stopCnt := 1, frameValid := true } := by
  refine ⟨⟨by decide, by decide, ?_, by decide, by decide, by decide⟩, ⟨_, rfl⟩,
    ⟨by decide, by decide, ?_, by decide, by decide, by decide⟩⟩
  · intro _ k hk
    change 3 ≤ k at hk
    change (0x05#8).getLsbD k = false
    rcases Nat.lt_or_ge k 8 with h | h
    · interval_cases k <;> decide
    · exact BitVec.getLsbD_of_ge _ _ h
  · intro h; cases h

/-- The hypotheses shared by `CountNeverDecreasesButByReset`, `StickyFlagsFollowTheirEventsUntilReset`,
`TimerNeverWraps`, `PinSamplerFollowsRxEveryTick`, `ReadDataIsOfTheStateBeforeTheTick`,
`HostRegistersTakeOnlyBusWrites` and `BufferContentReachesOnlyReadData`: a commit at capacity with a bus write in the
same tick, a commit with a read, and a reset. -/
theorem witness_of_a_step_without_and_with_reset :
    (let s := scripted (committing 4 2 fullBuf true false) [writeTick false 0x0001 9]
     s.input.rst = false ∧ ∃ t, step s = .next t) ∧
    (let s := scripted (committing 0 0 [] false false) [readTick true 0x0004]
     s.input.rst = false ∧ ∃ t, step s = .next t) ∧
    (let s := scripted midFrame [{ lineTick true with rst := true }]
     s.input.rst = true ∧ ∃ t, step s = .next t) :=
  ⟨⟨rfl, _, rfl⟩, ⟨rfl, _, rfl⟩, ⟨rfl, _, rfl⟩⟩

/-- A write to each address that a clause names, and to the next one. -/
theorem witness_HostRegistersTakeOnlyBusWrites :
    steps (scripted base [writeTick true 0x0000 9]) (fun t => t.fullDelay == 9 && t.halfDelay == 4) = true ∧
    steps (scripted base [writeTick true 0x0001 9]) (fun t => t.halfDelay == 9 && t.fullDelay == 8) = true ∧
    steps (scripted base [writeTick true 0x0002 6]) (fun t => !t.en && t.stop2 && t.ovfHalt) = true ∧
    steps (scripted base [writeTick true 0x0003 9]) (fun t => t.fullDelay == 8 && t.ctrlWord == 0) = true := by decide

/-- A read, a write and no command. -/
theorem witness_ReadDataIsOfTheStateBeforeTheTick :
    steps (scripted base [readTick true 0x0000]) (fun t => t.out.busRdata == 8) = true ∧
    steps (scripted base [writeTick true 0x0000 9]) (fun t => t.out.busRdata == 0) = true ∧
    steps (scripted base [lineTick true]) (fun t => t.out.busRdata == 0) = true := by decide

/-- The disjuncts of `TimerNeverWraps`: counted down, loaded with the greatest sum, loaded with the full-bit delay. -/
theorem witness_TimerNeverWraps :
    steps (scripted { base with seq := .sampling, timer := 2 } [lineTick true]) (fun t => t.timer == 1) = true ∧
    steps (ready 0xFFFF 0xFFFF [lineTick false]) (fun t => t.timer == 131070#17) = true ∧
    steps (scripted { base with seq := .stopWait, stop2 := true } [lineTick true]) (fun t => t.timer == 8) = true := by
  decide

/-- Each operation that writes `STATE`. -/
theorem witness_SequencerMovesOnlyByItsFourTransfers :
    (let s := scripted midFrame [{ lineTick true with rst := true }]
     decodeT (selector s.consumed s.input) = .ok .rst ∧ ∃ t, step s = .next t) ∧
    (let s := ready 8 4 [lineTick false]
     decodeT (selector s.consumed s.input) = .ok .idleStart ∧ ∃ t, step s = .next t) ∧
    (let s := scripted { base with seq := .sampling, timer := 1, bitIdx := 7 } [lineTick true]
     decodeT (selector s.consumed s.input) = .ok (.sampLast true) ∧ ∃ t, step s = .next t) ∧
    (let s := scripted (committing 0 0 [] false false) [lineTick true]
     decodeT (selector s.consumed s.input) = .ok (.stopDone1 true) ∧ ∃ t, step s = .next t) ∧
    (let s := scripted { committing 0 0 [] false false with stopCnt := 1 } [lineTick true]
     decodeT (selector s.consumed s.input) = .ok (.stopDone2 true) ∧ ∃ t, step s = .next t) :=
  ⟨⟨by rfl, _, rfl⟩, ⟨by rfl, _, rfl⟩, ⟨by rfl, _, rfl⟩, ⟨by rfl, _, rfl⟩, ⟨by rfl, _, rfl⟩⟩

/-- A commit at capacity with a LOW stop-bit sample: all three events. -/
theorem witness_EventsFollowExecutedOperation :
    let s := scripted (committing 4 2 fullBuf true false) [lineTick false]
    BufferInv s ∧ decodeT (selector s.consumed s.input) = .ok (.stopDone1 false) ∧ (∃ t, step s = .next t) ∧
    s.input.rx = false ∧ s.count.toNat = s.capacity :=
  ⟨⟨bufferInv_full.1, bufferInv_full.2, bufferInv_full.3, bufferInv_full.4, bufferInv_full.5, bufferInv_full.6⟩,
    by rfl, ⟨_, rfl⟩, rfl, rfl⟩

/-- The events of STOP.NEXT and STOP.DONE2, and of an operation without any. -/
theorem witness_EventsFollowExecutedOperation_clauses :
    steps (scripted { committing 0 0 [] false false with stop2 := true } [lineTick false])
      (fun t => ev t == (false, true, false)) = true ∧
    steps (scripted { committing 0 0 [] false false with stopCnt := 1 } [lineTick false])
      (fun t => ev t == (false, false, true)) = true ∧
    steps (scripted midFrame [lineTick false]) (fun t => ev t == (false, false, false)) = true := by decide

theorem witness_TimerLoadsTheDelayBeforeTheTick :
    let s := scripted { base with seq := .sampling, timer := 1 } [writeTick true 0x0000 20]
    s.input.rst = false ∧ s.seq = .sampling ∧ s.timer.toNat ≤ 1 ∧ ∃ t, step s = .next t :=
  ⟨rfl, rfl, by decide, _, rfl⟩

theorem witness_HaltedReceiverStartsNothing :
    let s := scripted { ready 8 4 [] with bufferFull := true, ovfHalt := true, count := 4 } [lineTick false]
    s.input.rst = false ∧ s.seq = .idle ∧ s.bufferFull = true ∧ s.ovfHalt = true ∧ s.input.busAddr ≠ 2#16 :=
  ⟨rfl, rfl, rfl, rfl, by decide⟩

theorem witness_BusCommandNeverReachesTheReceiverInItsTick :
    (writeTick false 0x0002 1).rst = (readTick false 0x8000).rst ∧
    (writeTick false 0x0002 1).rx = (readTick false 0x8000).rx ∧
    ∃ t, tick (readTick false 0x8000) (ready 8 4 []) = .next t := ⟨rfl, rfl, _, rfl⟩

theorem witness_ResetTickLeavesTheResetTable :
    (scripted midFrame [{ writeTick true 0x0000 9 with rst := true }]).input.rst = true := rfl

theorem witness_ResetTickIgnoresEverythingElse :
    ({ writeTick true 0x0000 9 with rst := true } : Inputs).rst = true ∧ ({ lineTick false with rst := true }).rst := by
  decide

theorem witness_WaitOperationsCountDown : 2 ≤ ({ base with seq := .sampling, timer := 2 } : State).timer.toNat := by
  decide

/-- The three cases of `Append`: store, overwrite, drop; the last index of the buffer. -/
theorem witness_StopDone_WritePointerIsAnIndex :
    (let s := committing 3 3 [(0, 1), (1, 2), (2, 3)] false false
     s.wptr.toNat < s.capacity ∧ s.count.toNat < s.capacity) ∧
    (let s := committing 4 3 fullBuf false false
     s.wptr.toNat < s.capacity ∧ ¬ s.count.toNat < s.capacity ∧ s.ovfHalt = false) ∧
    (let s := committing 4 0 fullBuf true true
     s.wptr.toNat < s.capacity ∧ ¬ s.count.toNat < s.capacity ∧ s.ovfHalt = true) := by decide

theorem witness_CommitFaultsExactlyOutsideTheBuffer :
    (let s := committing 3 4 [] false true
     s.capacity ≤ s.wptr.toNat ∧ s.count.toNat < s.capacity ∧
     exec (.stopDone2 true) s = .fault .bufferIndexOutOfRange) ∧
    (let s := committing 4 4 [] false false
     s.capacity ≤ s.wptr.toNat ∧ s.ovfHalt = false ∧ exec (.stopDone1 true) s = .fault .bufferIndexOutOfRange) :=
  ⟨⟨by decide, by decide, by rfl⟩, by decide, by rfl, by rfl⟩

theorem witness_RdBufReadsTheWindow :
    (3#15).toNat < (committing 4 0 fullBuf false false).capacity ∧
    (committing 4 0 fullBuf false false).buf.entry (3#15).toNat = some 4 ∧
    (committing 4 0 fullBuf false false).capacity ≤ (4#15).toNat := by decide

theorem witness_WrittenRegistersReadBack :
    (∃ t u, exec (.wrCtrl 0xFFFF) base = .next t ∧ exec .rdCtrl t = .next u) ∧
    (∃ t u, exec (.wrFull 9) base = .next t ∧ exec .rdFull t = .next u) ∧
    (∃ t u, exec (.wrHalf 9) base = .next t ∧ exec .rdHalf t = .next u) :=
  ⟨⟨_, _, rfl, rfl⟩, ⟨_, _, rfl, rfl⟩, ⟨_, _, rfl, rfl⟩⟩

theorem witness_UnlistedAddressesAndReservedBitsAreHarmless :
    (0x0003#16 ≠ 0#16 ∧ 0x0003#16 ≠ 1#16 ∧ 0x0003#16 ≠ 2#16) ∧
    (0x000A ≤ (0x000A#16).toNat ∧ (0x7FFF#16).toNat ≤ 0x7FFF) ∧ 0x8000 + base.capacity ≤ (0x8004#16).toNat ∧
    (∃ t, exec .rdCtrl base = .next t) ∧ decodeB 0x200000000#34 = .ok .rdFull :=
  ⟨by decide, by decide, by decide, ⟨_, rfl⟩, by rfl⟩

theorem witness_OperationsAndCommandsWriteDisjointState :
    (∃ t, exec (.stopDone1 false) (committing 4 2 fullBuf true false) = .next t) ∧
    (∃ t, exec (.wrCtrl 7) base = .next t) := ⟨⟨_, rfl⟩, ⟨_, rfl⟩⟩

/-- In the middle of a wait of three ticks, and at its end. -/
theorem witness_WaitLastsExactlyItsLoad :
    let s := scripted { base with seq := .sampling, timer := 3 } [lineTick true, writeTick false 0x0000 1]
    s.seq ≠ .idle ∧ NoReset s 1 ∧ NoReset s 2 ∧ 1 < waitTicks s.timer.toNat ∧ 2 < waitTicks s.timer.toNat ∧
    2 + 1 = waitTicks s.timer.toNat :=
  ⟨by decide, by unfold NoReset; decide, by unfold NoReset; decide, by decide, by decide, by decide⟩

/-- A load of 0 waits one tick, as a load of 1 does. -/
theorem witness_WaitLastsExactlyItsLoad_zero :
    let s := scripted { base with seq := .stopWait, timer := 0 } [lineTick true]
    s.seq ≠ .idle ∧ NoReset s 0 ∧ 0 < waitTicks s.timer.toNat ∧ 0 + 1 = waitTicks s.timer.toNat :=
  ⟨by decide, by unfold NoReset; decide, by decide, by decide⟩

theorem startsFrame_ready (F H : Half) (rest : List Inputs) : StartsFrame (ready F H (lineTick false :: rest)) :=
  ⟨rfl, rfl, rfl, rfl⟩

/-- A frame during which the host writes `CTRL`, at delays 1 and 0. -/
theorem witness_FrameIsDecodedByTimeAlone :
    let s := ready 1 0 (lineTick false :: writeTick true 0x0002 3 :: List.replicate 8 (lineTick true))
    BufferInv s ∧ StartsFrame s ∧ 10 = sampleTick s.halfDelay s.fullDelay 8 + 1 ∧ NoReset s 10 ∧
    KeepsDelays s 10 ∧ 1 ≤ s.fullDelay.toNat :=
  ⟨bufferInv_ready _ _ _, startsFrame_ready _ _ _, by decide, by unfold NoReset; decide,
    by unfold KeepsDelays; decide, by decide⟩

/-- With one stop bit and with two. -/
theorem witness_StartedFrameCommitsOnSchedule :
    (let s := ready 0 0 (List.replicate 10 (lineTick false))
     BufferInv s ∧ StartsFrame s ∧ sampleTick s.halfDelay s.fullDelay (if s.stop2 then 9 else 8) + 1 = 10 ∧
     NoReset s 10 ∧ NoHostWrite s 10 ∧ s.count.toNat < s.capacity) ∧
    (let s : State := { ready 1 1 (List.replicate 12 (lineTick false)) with stop2 := true }
     BufferInv s ∧ StartsFrame s ∧ sampleTick s.halfDelay s.fullDelay (if s.stop2 then 9 else 8) + 1 = 12 ∧
     NoReset s 12 ∧ NoHostWrite s 12) := by
  have h := bufferInv_ready 1 1 (List.replicate 12 (lineTick false))
  exact ⟨⟨bufferInv_ready _ _ _, startsFrame_ready _ _ _, by decide, by unfold NoReset; decide,
      by unfold NoHostWrite; decide, by decide⟩,
    ⟨h.1, h.2, h.3, h.4, h.5, h.6⟩, ⟨rfl, rfl, rfl, rfl⟩, by decide, by unfold NoReset; decide,
      by unfold NoHostWrite; decide⟩

theorem noReset_ready (F H : Half) (n : Nat) :
    NoReset (ready F H (lineTick false :: List.replicate n (lineTick true))) (n + 1) := by
  intro j hj
  unfold ready State.inputAt
  cases j with
  | zero => rfl
  | succ j => simp [show j < n by omega, lineTick]

/-- The longest frame with no RST, and a frame that starts in the tick right after a commit. -/
theorem witness_EveryStartedFrameCommitsUnlessReset :
    (let s := ready 0xFFFF 0xFFFF (lineTick false :: List.replicate 720885 (lineTick true))
     BufferInv s ∧ StartsFrame s ∧ NoReset s 720886) ∧
    (let s : State :=
       { ready 0 0 (List.replicate 10 (lineTick false)) with out := { base.out with frameDone := true } }
     BufferInv s ∧ StartsFrame s ∧ NoReset s 10 ∧ s.out.frameDone = true) := by
  have h := bufferInv_ready 0 0 (List.replicate 10 (lineTick false))
  exact ⟨⟨bufferInv_ready _ _ _, startsFrame_ready _ _ _, noReset_ready 0xFFFF 0xFFFF 720885⟩,
    ⟨h.1, h.2, h.3, h.4, h.5, h.6⟩, ⟨rfl, rfl, rfl, rfl⟩, by unfold NoReset; decide, rfl⟩

theorem witness_WireFrameIsDecodedAsSent :
    let s := ready 2 1 ((wireTicks 0x41 2 true).map lineTick)
    BufferInv s ∧ StartsFrame s ∧ s.stop2 = false ∧ s.count.toNat < s.capacity ∧ 1 ≤ s.fullDelay.toNat ∧
    (∀ k < 8, (k + 1) * 2 ≤ s.halfDelay.toNat + (k + 1) * s.fullDelay.toNat ∧
      s.halfDelay.toNat + (k + 1) * s.fullDelay.toNat < (k + 2) * 2) ∧
    20 = s.halfDelay.toNat + 9 * s.fullDelay.toNat + 1 ∧ NoReset s 20 ∧ NoHostWrite s 20 ∧
    (∀ j < 10 * 2, some (s.inputAt j).rx = (wireTicks 0x41 2 true)[j]?) ∧ 9 * 2 < 20 ∧ 20 ≤ 10 * 2 :=
  ⟨bufferInv_ready _ _ _, ⟨rfl, rfl, rfl, rfl⟩, by decide, by decide, by decide, by decide, by decide,
    by unfold NoReset; decide, by unfold NoHostWrite; decide, by decide, by decide, by decide⟩

theorem witness_BackToBackFramesAreBothReceived :
    let s := ready 1 0 ((wireTicks 0x41 1 true ++ wireTicks 0x5A 1 true).map lineTick)
    BufferInv s ∧ StartsFrame s ∧ s.stop2 = false ∧ s.fullDelay.toNat = 1 ∧ s.halfDelay.toNat < 1 ∧
    s.count.toNat + 2 ≤ s.capacity ∧ 20 = 10 * 1 + s.halfDelay.toNat + 9 * 1 + 1 ∧ NoReset s 20 ∧ NoHostWrite s 20 ∧
    (∀ j < 20 * 1, some (s.inputAt j).rx = (wireTicks 0x41 1 true ++ wireTicks 0x5A 1 true)[j]?) :=
  ⟨bufferInv_ready _ _ _, ⟨rfl, rfl, rfl, rfl⟩, by decide, by decide, by decide, by decide, by decide,
    by unfold NoReset; decide, by unfold NoHostWrite; decide, by decide⟩

end Sys2Proof.Tests
end

/-! PROOFS. The buffer's bookkeeping and the event outputs, followed through an operation, a step and a run; and the
statements of `10_state.md`: the reset tick (R22), the events (R23) and the invariants (R47). -/

namespace Sys2Proof.Proofs

open Sys2Proof Sys2Proof.Machine Sys2Proof.Laws

/-! ### The elements that the buffer's invariant speaks of -/

/-- The stored bytes, `COUNT`, `WPTR`, `BUFFER_FULL` and `CAPACITY` are as before: all that `BufferInv` reads. -/
structure SameBookkeeping (s t : State) : Prop where
  count : t.count = s.count
  wptr : t.wptr = s.wptr
  bufferFull : t.bufferFull = s.bufferFull
  buf : t.buf = s.buf
  capacityTop : t.capacityTop = s.capacityTop

theorem SameBookkeeping.capacity {s t : State} (h : SameBookkeeping s t) : t.capacity = s.capacity := by
  rw [State.capacity, State.capacity, h.capacityTop]

theorem SameBookkeeping.hasRoom {s t : State} (h : SameBookkeeping s t) : t.hasRoom = s.hasRoom := by
  rw [State.hasRoom, State.hasRoom, h.count, h.capacity]

theorem SameBookkeeping.bufferInv {s t : State} (h : SameBookkeeping s t) (hs : BufferInv s) : BufferInv t where
  count_le := by rw [h.count, h.capacity]; exact hs.count_le
  wptr_lt := by rw [h.wptr, h.capacity]; exact hs.wptr_lt
  filling := by rw [h.count, h.capacity, h.wptr, h.bufferFull]; exact hs.filling
  full := by rw [h.count, h.capacity, h.bufferFull]; exact hs.full
  canonical := by rw [h.buf]; exact hs.canonical
  written := by rw [h.count, h.buf]; exact hs.written

theorem SameBookkeeping.trans {s t u : State} (h : SameBookkeeping s t) (h' : SameBookkeeping t u) :
    SameBookkeeping s u where
  count := h'.count.trans h.count
  wptr := h'.wptr.trans h.wptr
  bufferFull := h'.bufferFull.trans h.bufferFull
  buf := h'.buf.trans h.buf
  capacityTop := h'.capacityTop.trans h.capacityTop

theorem consumed_sameBookkeeping (s : State) : SameBookkeeping s s.consumed := ⟨rfl, rfl, rfl, rfl, rfl⟩

/-! ### `Append` -/

theorem capacity_le (s : State) : s.capacity ≤ 32768 := s.capacityTop.isLt

/-- `COUNT + 1` does not wrap while there is room. -/
theorem count_succ_toNat {s : State} (h : s.count.toNat < s.capacity) :
    (s.count + 1).toNat = s.count.toNat + 1 := by
  have hc := capacity_le s
  rw [BitVec.toNat_add]
  exact Nat.mod_eq_of_lt (show s.count.toNat + 1 < 65536 by omega)

/-- `COUNT` after an `Append` (`42_stop_and_commit.md` R178). -/
theorem append_count {s t : State} {b : Byte} (h : s.append b = .next t) :
    t.count.toNat = s.count.toNat + if s.hasRoom then 1 else 0 := by
  rcases append_cases s b with ⟨room, -, e⟩ | ⟨full, -, -, e⟩ | ⟨full, -, e⟩ | ⟨-, -, e⟩ <;> rw [e] at h <;> cases h
  · rw [if_pos ((hasRoom_iff s).mpr room)]; exact count_succ_toNat room
  · simp [overwritten, Nat.not_lt.mpr full]
  · simp [Nat.not_lt.mpr full]

/-- The event `buffer_full` is asserted by an `Append` that finds no room (`42_stop_and_commit.md` R178). -/
theorem append_bufferFullEvent {s t : State} {b : Byte} (h : s.append b = .next t) :
    t.out.bufferFull = (s.out.bufferFull || !s.hasRoom) := by
  rcases append_cases s b with ⟨room, -, e⟩ | ⟨full, -, -, e⟩ | ⟨full, -, e⟩ | ⟨-, -, e⟩ <;> rw [e] at h <;> cases h
  · simp [stored, (hasRoom_iff s).mpr room]
  · simp [overwritten, State.hasRoom, full]
  · simp [State.hasRoom, full]

/-- The listed entries after a store. -/
theorem isSome_entry_store (m : Memory) (i j : Nat) (b : Byte) :
    ((m.store i b).entry j).isSome = true ↔ j = i ∨ (m.entry j).isSome = true := by
  by_cases h : j = i
  · simp [h]
  · simp [h, entry_store_other m b h]

theorem nextWptr_lt {s : State} (h : s.wptr.toNat < s.capacity) : s.nextWptr.toNat < s.capacity := by
  rw [nextWptr_toNat s h]; exact Nat.mod_lt _ (Nat.succ_pos _)

/-- The case "store" of R178: `WPTR` and `COUNT` rise together until the buffer is full. -/
theorem bufferInv_stored {s : State} (hs : BufferInv s) (room : s.count.toNat < s.capacity) (b : Byte) :
    BufferInv (stored s b) := by
  obtain ⟨hwptr, hflag⟩ := hs.filling room
  have hcount : (stored s b).count.toNat = s.count.toNat + 1 := count_succ_toNat room
  have hcap : (stored s b).capacity = s.capacity := rfl
  exact {
    count_le := by omega
    wptr_lt := nextWptr_lt hs.wptr_lt
    filling := fun hlt => by
      refine ⟨BitVec.eq_of_toNat_eq ?_, hflag⟩
      calc s.nextWptr.toNat = (s.wptr.toNat + 1) % s.capacity := nextWptr_toNat s hs.wptr_lt
        _ = s.count.toNat + 1 := by rw [hwptr, Nat.mod_eq_of_lt (by omega)]
        _ = (stored s b).count.toNat := hcount.symm
    full := fun h => absurd (hflag.symm.trans h) Bool.false_ne_true
    canonical := store_wf _ _ _ hs.canonical
    written := fun i => by
      rw [hcount]
      refine (isSome_entry_store s.buf s.wptr.toNat i b).trans ?_
      rw [hs.written, hwptr]
      omega }

/-- The case "overwrite" of R178: every entry is written already. -/
theorem bufferInv_overwritten {s : State} (hs : BufferInv s) (full : s.capacity ≤ s.count.toNat) (b : Byte) :
    BufferInv (overwritten s b) where
  count_le := hs.count_le
  wptr_lt := nextWptr_lt hs.wptr_lt
  filling := fun h => absurd full (Nat.not_le.mpr h)
  full := fun _ => Nat.le_antisymm hs.count_le full
  canonical := store_wf _ _ _ hs.canonical
  written := fun i => by
    refine (isSome_entry_store s.buf s.wptr.toNat i b).trans ?_
    have hw := hs.wptr_lt
    rw [hs.written]
    change _ ↔ i < s.count.toNat
    omega

/-- The case "drop" of R178: only `BUFFER_FULL` is set, at capacity. -/
theorem bufferInv_dropped {s : State} (hs : BufferInv s) (full : s.capacity ≤ s.count.toNat) :
    BufferInv (s.raise .bufferFullCondition) where
  count_le := hs.count_le
  wptr_lt := hs.wptr_lt
  filling := fun h => absurd full (Nat.not_le.mpr h)
  full := fun _ => Nat.le_antisymm hs.count_le full
  canonical := hs.canonical
  written := hs.written

/-- Under the buffer's invariant an `Append` answers a next state, and keeps the invariant. -/
theorem append_next_of_bufferInv {s : State} (hs : BufferInv s) (b : Byte) :
    ∃ t, s.append b = .next t ∧ BufferInv t := by
  rcases append_cases s b with ⟨room, -, e⟩ | ⟨full, -, -, e⟩ | ⟨full, -, e⟩ | ⟨outside, -, -⟩
  · exact ⟨_, e, bufferInv_stored hs room b⟩
  · exact ⟨_, e, bufferInv_overwritten hs full b⟩
  · exact ⟨_, e, bufferInv_dropped hs full⟩
  · exact absurd hs.wptr_lt (Nat.not_lt.mpr outside)

theorem append_keeps_bufferInv {s t : State} {b : Byte} (hs : BufferInv s) (h : s.append b = .next t) :
    BufferInv t := by
  obtain ⟨u, e, hu⟩ := append_next_of_bufferInv hs b
  rw [e] at h; cases h
  exact hu

/-! ### The control word -/

theorem ctrlWord_eq_zero {s : State} (hen : s.en = false) (hstop2 : s.stop2 = false) (hhalt : s.ovfHalt = false) :
    s.ctrlWord = 0 := by
  rw [State.ctrlWord, hen, hstop2, hhalt]; decide

/-! ### The operation of a tick -/

/-- The operations that commit a frame (`42_stop_and_commit.md` R173, R174). -/
def commits : Instr → Bool
  | .stopDone1 _ | .stopDone2 _ => true
  | _ => false

/-- The operations that take the stop-bit sample (R171 to R173). -/
def takesStopSample : Instr → Bool
  | .stopNext _ | .stopDone1 _ => true
  | _ => false

theorem commits_iff (op : Instr) : commits op = true ↔ ∃ rx, op = .stopDone1 rx ∨ op = .stopDone2 rx := by
  cases op <;> simp [commits]

theorem takesStopSample_iff (op : Instr) :
    takesStopSample op = true ↔ ∃ rx, op = .stopNext rx ∨ op = .stopDone1 rx := by
  cases op <;> simp [takesStopSample]

/-- `u` is what an operation at line level `rx` has made of `s` before it commits, if it does: the bookkeeping is
untouched, and of the events only `framing_error` is asserted, when `sampled` says that the stop bit is sampled. -/
structure BeforeCommit (rx sampled : Bool) (s u : State) : Prop extends SameBookkeeping s u where
  events : EventsAre u false (sampled && !rx) false

theorem samplePin_beforeCommit (rx : Bool) (s : State) : BeforeCommit rx false s (s.samplePin rx) :=
  ⟨⟨rfl, rfl, rfl, rfl, rfl⟩, rfl, rfl, rfl⟩

theorem stopSample_beforeCommit (rx : Bool) (s : State) :
    BeforeCommit rx true s ((s.samplePin rx).stopSample rx) :=
  ⟨⟨by simp, by simp, by simp, by simp, by simp⟩, by simp, by simp, by simp⟩

/-- An operation may write its own registers besides: they are neither bookkeeping nor events. -/
theorem BeforeCommit.of_sameBookkeeping {rx sampled : Bool} {s u v : State} (h : BeforeCommit rx sampled s u)
    (hv : SameBookkeeping u v) (ho : v.out = u.out) : BeforeCommit rx sampled s v :=
  ⟨h.toSameBookkeeping.trans hv, by rw [EventsAre, ho]; exact h.events⟩

/-- What the operation of a tick that is not RST answers: it prepares a state and ends there, or commits from it. -/
theorem exec_opOf (s : State) (inp : Inputs) (hr : inp.rst = false) :
    ∃ u, BeforeCommit inp.rx (takesStopSample (opOf s inp)) s u ∧
      exec (opOf s inp) s = if commits (opOf s inp) then u.commit else .next u := by
  have pin := samplePin_beforeCommit inp.rx s
  have stop := stopSample_beforeCommit inp.rx s
  rw [opOf, hr]
  refine operation_cases s inp.rx
    (fun op => ∃ u, BeforeCommit inp.rx (takesStopSample op) s u ∧
      exec op s = if commits op then u.commit else .next u)
    (start := fun _ _ _ _ => ⟨_, ?start, rfl⟩)
    (poll := fun _ _ => ⟨_, pin, rfl⟩)
    (sampWait := fun _ _ => ⟨_, ?sampWait, rfl⟩)
    (sampBit := fun _ _ _ => ⟨_, ?sampBit, rfl⟩)
    (sampLast := fun _ _ _ => ⟨_, ?sampLast, rfl⟩)
    (stopWait := fun _ _ => ⟨_, ?stopWait, rfl⟩)
    (stopNext := fun _ _ _ _ => ⟨_, ?stopNext, rfl⟩)
    (done1 := fun _ _ _ _ => ⟨_, stop, rfl⟩)
    (done2 := fun _ _ _ => ⟨_, pin, rfl⟩)
  case start | sampWait | sampBit | sampLast | stopWait => exact pin.of_sameBookkeeping ⟨rfl, rfl, rfl, rfl, rfl⟩ rfl
  case stopNext => exact stop.of_sameBookkeeping ⟨rfl, rfl, rfl, rfl, rfl⟩ rfl

/-! ### The step -/

/-- The bus command of a tick reaches neither the bookkeeping nor the events (`10_state.md` R52). -/
theorem joinTick_sameBookkeeping {a b t : State} (h : joinTick (.next a) (.next b) = .next t) :
    SameBookkeeping a t ∧ EventsAre t a.out.bufferFull a.out.framingError a.out.frameDone := by
  rw [joinTick_next] at h; cases h
  exact ⟨⟨rfl, rfl, rfl, rfl, rfl⟩, rfl, rfl, rfl⟩

/-- `SameBookkeeping` but for one `Append`: what a tick that commits does to the bookkeeping. -/
def AppendsOnce (s t : State) : Prop :=
  ∃ u v b, SameBookkeeping s u ∧ u.append b = .next v ∧ SameBookkeeping v t

/-- Everything that a tick which is not RST can do to the bookkeeping and the events. -/
theorem step_bookkeeping_cases {s t : State} (hr : s.input.rst = false) (h : step s = .next t) :
    let op := opOf s.consumed s.input
    let low := takesStopSample op && !s.input.rx
    (commits op = false ∧ SameBookkeeping s t ∧ EventsAre t false low false) ∨
    (commits op = true ∧ AppendsOnce s t ∧ EventsAre t (!s.hasRoom) low true) := by
  intro op low
  rcases step_cases h with ⟨hr', -⟩ | ⟨-, a, b, ha, -, hj⟩
  · rw [hr] at hr'; cases hr'
  obtain ⟨u, hu, hexec⟩ := exec_opOf s.consumed s.input hr
  obtain ⟨hat, hev⟩ := joinTick_sameBookkeeping hj
  have hsu : SameBookkeeping s u := (consumed_sameBookkeeping s).trans hu.toSameBookkeeping
  obtain ⟨hfull, hlow, hdone⟩ := hu.events
  rw [ha] at hexec
  cases hc : commits op with
  | false =>
    rw [if_neg (by simp [op, hc])] at hexec
    cases hexec
    refine .inl ⟨rfl, hsu.trans hat, ?_⟩
    rwa [hfull, hlow, hdone] at hev
  | true =>
    rw [if_pos hc] at hexec
    obtain ⟨v, hv, rfl⟩ := commit_next hexec.symm
    have hframe : v.out.framingError = low := by
      obtain ⟨-, -, -, -, -, -, -, hf, -⟩ := append_frame hv
      exact hf.trans hlow
    have hroom : v.out.bufferFull = !s.hasRoom := by
      rw [append_bufferFullEvent hv, hfull, hsu.hasRoom, Bool.false_or]
    refine .inr ⟨rfl, ⟨u, v, _, hsu, hv, ?_⟩, ?_⟩
    · exact SameBookkeeping.trans (t := committed v) ⟨rfl, rfl, rfl, rfl, rfl⟩ hat
    · rw [← hframe, ← hroom]; exact hev

theorem step_of_rst {s : State} (hr : s.input.rst = true) : step s = exec .rst s.consumed := by
  rw [step_eq, if_pos hr]

/-- The events of a tick are functions of its operation, the line level and the room in the buffer
(`10_state.md` R23). -/
theorem step_events {s t : State} (h : step s = .next t) :
    let op := opOf s.consumed s.input
    EventsAre t (commits op && !s.hasRoom) (takesStopSample op && !s.input.rx) (commits op) := by
  intro op
  cases hr : s.input.rst with
  | true =>
    have hop : op = .rst := by simp [op, opOf, hr, operationOf]
    rw [step_of_rst hr] at h
    cases h
    rw [hop]
    exact ⟨rfl, rfl, rfl⟩
  | false =>
    rcases step_bookkeeping_cases hr h with ⟨hc, -, hev⟩ | ⟨hc, -, hev⟩ <;> simpa [op, hc] using hev

/-! ### The buffer's invariant along a run -/

/-- After RST the buffer is empty, whatever it was (`10_state.md` R46). -/
theorem execRst_bufferInv (s : State) : ∃ t, exec .rst s = .next t ∧ BufferInv t :=
  ⟨_, rfl, {
    count_le := Nat.zero_le _
    wptr_lt := Nat.succ_pos _
    filling := fun _ => ⟨rfl, rfl⟩
    full := fun h => absurd h Bool.false_ne_true
    canonical := List.Pairwise.nil
    written := fun i => ⟨fun h => absurd h Bool.false_ne_true, fun h => absurd h (Nat.not_lt_zero i)⟩ }⟩

/-- A tick never stops under the buffer's invariant (`00_scope.md` R9). -/
theorem step_next_of_bufferInv {s : State} (hs : BufferInv s) : ∃ t, step s = .next t := by
  cases hr : s.input.rst with
  | true => exact ⟨_, step_of_rst hr⟩
  | false =>
    obtain ⟨u, hu, hexec⟩ := exec_opOf s.consumed s.input hr
    have hui : BufferInv u := ((consumed_sameBookkeeping s).trans hu.toSameBookkeeping).bufferInv hs
    have hcommit : ∃ a, u.commit = .next a := by
      obtain ⟨v, hv, -⟩ := append_next_of_bufferInv hui u.shreg
      exact ⟨committed v, by rw [State.commit, hv]; rfl⟩
    have hop : ∃ a, exec (opOf s.consumed s.input) s.consumed = .next a := by
      rw [hexec]
      split
      · exact hcommit
      · exact ⟨u, rfl⟩
    obtain ⟨a, ha⟩ := hop
    obtain ⟨b, hb, -⟩ := command_next (cmdOf s.input) (commandOf_isOperation ..) s.consumed
    rw [step_eq, hr, ha, hb]
    exact ⟨_, rfl⟩

theorem step_keeps_bufferInv {s t : State} (hs : BufferInv s) (h : step s = .next t) : BufferInv t := by
  cases hr : s.input.rst with
  | true =>
    obtain ⟨u, hu, hinv⟩ := execRst_bufferInv s.consumed
    rw [step_of_rst hr, hu] at h; cases h
    exact hinv
  | false =>
    rcases step_bookkeeping_cases hr h with ⟨-, hst, -⟩ | ⟨-, ⟨u, v, b, hsu, hv, hvt⟩, -⟩
    · exact hst.bufferInv hs
    · exact hvt.bufferInv (append_keeps_bufferInv (hsu.bufferInv hs) hv)

/-- `COUNT` does not decrease in a tick that is not RST (`10_state.md` R34). -/
theorem step_count_le {s t : State} (hr : s.input.rst = false) (h : step s = .next t) :
    s.count.toNat ≤ t.count.toNat := by
  rcases step_bookkeeping_cases hr h with ⟨-, hst, -⟩ | ⟨-, ⟨u, v, b, hsu, hv, hvt⟩, -⟩
  · rw [hst.count]
  · rw [hvt.count, append_count hv, hsu.count]
    exact Nat.le_add_right ..

/-- A property that lets every tick complete and that every tick keeps holds after any number of ticks. -/
theorem after_next_of_invariant {P : State → Prop} (hstep : ∀ s, P s → ∃ t, step s = .next t ∧ P t)
    (n : Nat) {s : State} (hs : P s) : ∃ t, after n s = .next t ∧ P t := by
  induction n generalizing s with
  | zero => exact ⟨s, rfl, hs⟩
  | succ n ih =>
    obtain ⟨u, hu, hPu⟩ := hstep s hs
    obtain ⟨t, ht, hPt⟩ := ih hPu
    exact ⟨t, by rw [after_succ, hu]; exact ht, hPt⟩

theorem after_next_of_bufferInv (n : Nat) {s : State} (hs : BufferInv s) :
    ∃ t, after n s = .next t ∧ BufferInv t :=
  after_next_of_invariant (P := BufferInv) (fun _ hu => by
    obtain ⟨t, ht⟩ := step_next_of_bufferInv hu
    exact ⟨t, ht, step_keeps_bufferInv hu ht⟩) n hs

/-! ### The statements -/

/-- Settles O29: RST is the first row of the operation table, and it alone runs (`10_state.md` R22). -/
theorem resetTickIgnoresEverythingElse : Obligations.ResetTickIgnoresEverythingElse := by
  intro s inp hr
  have htick : ∀ i : Inputs, i.rst = true → tick i s = exec .rst s := fun i hi => by rw [tick_eq, if_pos hi]
  refine ⟨?_, htick inp hr, ⟨_, htick inp hr, rfl, rfl, rfl, ctrlWord_eq_zero rfl rfl rfl⟩,
    fun inp' hr' => ?_⟩
  · rw [decodeT_selector, hr]; rfl
  · rw [htick inp' hr', htick inp hr]

/-- Settles O21, by `step_events`; under the invariant no room means `COUNT` = `CAPACITY` (`10_state.md` R23). -/
theorem eventsFollowExecutedOperation : Obligations.EventsFollowExecutedOperation := by
  intro s t op hs hop h
  have hsel : opOf s.consumed s.input = op := Except.ok.inj ((decodeT_selector ..).symm.trans hop)
  obtain ⟨hfull, hlow, hdone⟩ := step_events h
  rw [hsel] at hfull hlow hdone
  have hroom : s.hasRoom = false ↔ s.count.toNat = s.capacity := by
    have := hs.count_le
    rw [← Bool.not_eq_true, hasRoom_iff]
    omega
  refine ⟨?_, ?_, ?_⟩
  · rw [hdone, commits_iff]
  · rw [hlow, Bool.and_eq_true, takesStopSample_iff, Bool.not_eq_true']
  · rw [hfull, Bool.and_eq_true, commits_iff, Bool.not_eq_true', hroom]

/-- Settles O13: an RST tick from any state gives `BufferInv`, and the run from there keeps it (`10_state.md`
R47). -/
theorem invariantsHoldFromAnyResetOn : Obligations.InvariantsHoldFromAnyResetOn := by
  intro s n hr
  obtain ⟨u, hu, hui⟩ := execRst_bufferInv s.consumed
  obtain ⟨t, ht, hti⟩ := after_next_of_bufferInv n hui
  refine ⟨t, ?_, hti.count_le, hti.wptr_lt, hti.filling, hti.full, fun _ => step_count_le, ?_,
    fun i => (hti.written i).mpr⟩
  · rw [after_succ, step_of_rst hr, hu]; exact ht
  · cases t.seq <;> decide

end Sys2Proof.Proofs

/-! PROOFS. A frame followed from its start tick to its stop-bit sample, and the statements of `30_encoding.md`: time
alone decodes a frame (R102), and unlisted addresses and reserved bits are harmless (R103). -/

namespace Sys2Proof.Proofs

open Sys2Proof Sys2Proof.Machine Sys2Proof.Laws

/-! ### The ticks at which a frame is sampled -/

theorem sampleTick_succ (H F : Half) (k : Nat) :
    sampleTick H F (k + 1) = sampleTick H F k + waitTicks F.toNat := by
  rw [sampleTick, sampleTick, Nat.succ_mul, Nat.add_assoc]

theorem sampleTick_mono (H F : Half) {k l : Nat} (h : k ≤ l) : sampleTick H F k ≤ sampleTick H F l :=
  Nat.add_le_add_left (Nat.mul_le_mul_right _ h) _

theorem waitTicks_of_ge {load : Nat} (h : 2 ≤ load) : waitTicks load = load := Nat.max_eq_left (by omega)

theorem waitTicks_of_le {load : Nat} (h : load ≤ 1) : waitTicks load = 1 := Nat.max_eq_right h

theorem waitTicks_pos (load : Nat) : 1 ≤ waitTicks load := Nat.le_max_right ..

/-- With a positive full-bit delay no wait is stretched, and data bit `k` is sampled at H + (k + 1) * F
(`30_encoding.md` R102). -/
theorem sampleTick_of_pos (H F : Half) (k : Nat) (hF : 1 ≤ F.toNat) :
    sampleTick H F k = H.toNat + (k + 1) * F.toNat := by
  rw [sampleTick, waitTicks, waitTicks, Nat.max_eq_left (by omega), Nat.max_eq_left hF, Nat.succ_mul]
  omega

/-! ### What an operation leaves of the inputs to come -/

/-- A receiver operation takes no inputs: those of the tick have been taken before it. -/
theorem operation_inputAt {i : Instr} (hi : i.isOperation = true) {s a : State} (h : exec i s = .next a) (j : Nat) :
    a.inputAt j = s.inputAt j := by
  have commit : ∀ u : State, u.commit = .next a → u.script = s.script → u.tickNo = s.tickNo →
      a.inputAt j = s.inputAt j := by
    intro u hu hscript htick
    obtain ⟨v, hv, rfl⟩ := commit_next hu
    obtain ⟨-, -, -, -, -, henv, -⟩ := append_frame hv
    exact inputAt_congr (henv.script.trans hscript) (henv.tickNo.trans htick) j
  cases i with
  | stopDone1 rx => exact commit _ h (by simp) (by simp)
  | stopDone2 rx => exact commit _ h rfl rfl
  | stopNext rx =>
    cases h
    exact inputAt_congr (by simp) (by simp) j
  | rst | idleStart | idlePoll | sampWait | sampBit | sampLast | stopWait => cases h; rfl
  | _ => cases hi

theorem operationOf_isOperation (r so f : Bool) (q : SeqState) (te la : Bool) (sc : BitVec 1) (s2 rx : Bool) :
    (operationOf r so f q te la sc s2 rx).isOperation = true := by
  cases r <;> cases q <;> revert so f te la sc s2 rx <;> decide

/-! ### What a command leaves of the full-bit delay -/

/-- An instruction that leaves `FULL_DELAY` as it is. -/
def KeepsFullDelay (i : Instr) : Prop := ∀ s b, exec i s = .next b → b.fullDelay = s.fullDelay

/-- Only a write to address 0 reaches `FULL_DELAY` (`20_memory.md` R66). -/
theorem commandOf_keepsFullDelay {v e : Bool} {a : Half} (d : Half) (hk : v = true → e = true → a ≠ 0#16) :
    KeepsFullDelay (commandOf v e a d) := by
  unfold commandOf
  cases v with
  | false => intro s b h; cases h; rfl
  | true =>
    cases e with
    | false =>
      rw [if_neg (by decide), if_neg (by decide)]
      repeat' refine ite_holds (P := KeepsFullDelay) ?_ ?_
      all_goals intro s b h; cases h; rfl
    | true =>
      rw [if_neg (by decide), if_pos rfl, if_neg (hk rfl rfl)]
      repeat' refine ite_holds (P := KeepsFullDelay) ?_ ?_
      all_goals intro s b h; cases h; rfl

/-! ### A step that is not RST -/

/-- A tick with no reset and no write of `FULL_DELAY`. -/
structure Undisturbed (inp : Inputs) : Prop where
  rst : inp.rst = false
  keepsFullDelay : inp.busValid = true → inp.busWe = true → inp.busAddr ≠ 0#16

theorem undisturbed_inputAt {s : State} {n m : Nat} (hr : NoReset s n) (hk : KeepsDelays s n) (hm : m < n) :
    Undisturbed (s.inputAt m) :=
  ⟨hr m hm, fun hv he => (hk m hm hv he).1⟩

/-- What a tick takes from its operation and what from its command (`10_state.md` R52). -/
theorem step_parts {s t : State} (hr : s.input.rst = false) (h : step s = .next t) :
    ∃ a b, exec (opOf s.consumed s.input) s.consumed = .next a ∧ exec (cmdOf s.input) s.consumed = .next b ∧
      SameFrame a t ∧ t.frameValid = a.frameValid ∧ (∀ j, t.inputAt j = a.inputAt j) ∧
      t.fullDelay = b.fullDelay := by
  rcases step_cases h with ⟨hr', -⟩ | ⟨-, a, b, ha, hb, hj⟩
  · rw [hr] at hr'; cases hr'
  · rw [joinTick_next] at hj; cases hj
    exact ⟨a, b, ha, hb, ⟨rfl, rfl, rfl, rfl, rfl⟩, rfl, fun _ => rfl, rfl⟩

/-- The sequencing state, the assembly register and `FRAME_VALID` after a tick are the operation's. -/
theorem step_operation {s t a : State} (hr : s.input.rst = false) (h : step s = .next t)
    (ha : exec (opOf s.consumed s.input) s.consumed = .next a) : SameFrame a t ∧ t.frameValid = a.frameValid := by
  obtain ⟨a', -, ha', -, hframe, hvalid, -⟩ := step_parts hr h
  rw [ha] at ha'; cases ha'
  exact ⟨hframe, hvalid⟩

/-- Each tick takes one tick's inputs. -/
theorem step_inputAt {s t : State} (hr : s.input.rst = false) (h : step s = .next t) (j : Nat) :
    t.inputAt j = s.inputAt (j + 1) := by
  obtain ⟨a, -, ha, -, -, -, hinputs, -⟩ := step_parts hr h
  calc t.inputAt j = a.inputAt j := hinputs j
    _ = s.consumed.inputAt j := operation_inputAt (operationOf_isOperation ..) ha j
    _ = s.inputAt (j + 1) := inputAt_consumed s j

theorem step_fullDelay {s t : State} (hu : Undisturbed s.input) (h : step s = .next t) :
    t.fullDelay = s.fullDelay := by
  obtain ⟨-, b, -, hb, -, -, -, hfull⟩ := step_parts hu.rst h
  exact hfull.trans (commandOf_keepsFullDelay _ hu.keepsFullDelay s.consumed b hb)

/-! ### The operation of a tick in a frame -/

theorem texp_eq_false {s : State} (h : 2 ≤ s.timer.toNat) : s.texp = false := by
  rw [← Bool.not_eq_true, texp_iff]; omega

/-- During a wait, in SAMPLING or STOP_WAIT, `TIMER` counts down (`30_encoding.md` R92 rows 4, 7; `41_sampling.md`
R150). -/
theorem exec_opOf_wait {s : State} {inp : Inputs} (hr : inp.rst = false) (hq : s.seq ≠ .idle)
    (hwait : 2 ≤ s.timer.toNat) :
    exec (opOf s inp) s = .next { s.samplePin inp.rx with timer := s.timer - 1 } := by
  have hx := texp_eq_false hwait
  cases h : s.seq with
  | idle => exact absurd h hq
  | sampling =>
    rw [show opOf s inp = .sampWait inp.rx by simp [opOf, operationOf, hr, h, hx]]
    rfl
  | stopWait =>
    rw [show opOf s inp = .stopWait inp.rx by simp [opOf, operationOf, hr, h, hx]]
    rfl

/-- What an operation that takes a data bit leaves: the bit at its place, the next wait loaded, and the next phase
(`41_sampling.md` R151, R152). -/
structure TakesDataBit (rx : Bool) (s a : State) : Prop where
  shreg : a.shreg = s.shreg ||| dataBit rx s.bitIdx
  timer : a.timer = delayLoad s.fullDelay
  more : s.bitIdx.toNat < 7 → a.seq = .sampling ∧ a.bitIdx.toNat = s.bitIdx.toNat + 1
  last : s.bitIdx.toNat = 7 → a.seq = .stopWait ∧ a.stopCnt = 0

theorem exec_opOf_sample {s : State} {inp : Inputs} (hr : inp.rst = false) (hq : s.seq = .sampling)
    (hend : s.timer.toNat ≤ 1) : ∃ a, exec (opOf s inp) s = .next a ∧ TakesDataBit inp.rx s a := by
  have hx : s.texp = true := (texp_iff s).mpr hend
  by_cases h7 : s.bitIdx = 7#3
  · have hop : opOf s inp = .sampLast inp.rx := by
      simp [opOf, operationOf, hr, hq, hx, (last_iff s).mpr h7]
    rw [hop]
    refine ⟨_, rfl, ?_, rfl, fun h => ?_, fun _ => ⟨rfl, rfl⟩⟩
    · rw [h7]
    · rw [h7] at h; exact absurd h (by decide)
  · have hl : s.last = false := by rw [← Bool.not_eq_true, last_iff]; exact h7
    have hop : opOf s inp = .sampBit inp.rx := by
      simp [opOf, operationOf, hr, hq, hx, hl]
    have hne : s.bitIdx.toNat ≠ 7 := fun h => h7 (BitVec.eq_of_toNat_eq h)
    rw [hop]
    refine ⟨_, rfl, rfl, rfl, fun h => ⟨hq, ?_⟩, fun h => absurd h hne⟩
    show (s.bitIdx + 1).toNat = _
    rw [BitVec.toNat_add]
    exact Nat.mod_eq_of_lt (show s.bitIdx.toNat + 1 < 8 by omega)

/-- At the end of the first stop delay the line is sampled, whether the frame then commits or waits once more
(`42_stop_and_commit.md` R171 to R173). -/
theorem exec_opOf_stopSample {s a : State} {inp : Inputs} (hr : inp.rst = false) (hq : s.seq = .stopWait)
    (hcnt : s.stopCnt = 0) (hend : s.timer.toNat ≤ 1) (h : exec (opOf s inp) s = .next a) :
    a.shreg = s.shreg ∧ a.frameValid = inp.rx := by
  have hx : s.texp = true := (texp_iff s).mpr hend
  cases h2 : s.stop2 with
  | true =>
    have hop : opOf s inp = .stopNext inp.rx := by simp [opOf, operationOf, hr, hq, hx, hcnt, h2]
    rw [hop] at h; cases h
    exact ⟨stopSample_shreg .., stopSample_frameValid ..⟩
  | false =>
    have hop : opOf s inp = .stopDone1 inp.rx := by simp [opOf, operationOf, hr, hq, hx, hcnt, h2]
    rw [hop] at h
    obtain ⟨v, hv, rfl⟩ := commit_next h
    obtain ⟨hframe, -, hvalid, -⟩ := append_frame hv
    exact ⟨hframe.shreg.trans (stopSample_shreg ..), hvalid.trans (stopSample_frameValid ..)⟩

/-! ### A frame in progress -/

/-- What stays of `s` in the state `t` that is `m` ticks later: the buffer's invariant, the inputs to come, seen `m`
ticks nearer, and the full-bit delay. -/
structure TicksAfter (s : State) (m : Nat) (t : State) : Prop where
  bufferInv : BufferInv t
  inputs : ∀ j, t.inputAt j = s.inputAt (m + j)
  fullDelay : t.fullDelay = s.fullDelay

theorem ticksAfter_zero {s : State} (hs : BufferInv s) : TicksAfter s 0 s :=
  ⟨hs, fun j => by rw [Nat.zero_add], rfl⟩

theorem TicksAfter.step {s t u : State} {m : Nat} (ht : TicksAfter s m t) (hu : Undisturbed t.input)
    (h : step t = .next u) : TicksAfter s (m + 1) u where
  bufferInv := step_keeps_bufferInv ht.bufferInv h
  inputs := fun j => by rw [step_inputAt hu.rst h, ht.inputs, Nat.add_assoc, Nat.add_comm 1]
  fullDelay := (step_fullDelay hu h).trans ht.fullDelay

/-- `t` is `m` ticks into the frame that starts at the next tick of `s`, and `p` data bits have been sampled: the
bits of `SHREG` are those samples, and the wait for the next one is so long that it ends on time
(`30_encoding.md` R102; `41_sampling.md` R158). -/
structure InFrame (s : State) (p m : Nat) (t : State) : Prop extends TicksAfter s m t where
  le : p ≤ 8
  sampling : p < 8 → t.seq = .sampling ∧ t.bitIdx.toNat = p
  stopping : p = 8 → t.seq = .stopWait ∧ t.stopCnt = 0
  due : m + waitTicks t.timer.toNat = sampleTick s.halfDelay s.fullDelay p + 1
  shreg : ∀ k, t.shreg.getLsbD k = (decide (k < p) && (s.inputAt (sampleTick s.halfDelay s.fullDelay k)).rx)

/-- The eight data bits and the stop-bit sample are the line's levels at their sample ticks. -/
def Decoded (s t : State) : Prop :=
  (∀ k < 8, t.shreg.getLsbD k = (s.inputAt (sampleTick s.halfDelay s.fullDelay k)).rx) ∧
  t.frameValid = (s.inputAt (sampleTick s.halfDelay s.fullDelay 8)).rx

theorem exec_opOf_start {s : State} (hstart : StartsFrame s) (hr : s.input.rst = false) :
    exec (opOf s.consumed s.input) s.consumed = execIdleStart s.consumed := by
  have hok : s.consumed.startOk = true := hstart.startOk
  have hop : opOf s.consumed s.input = .idleStart := by
    simp [opOf, operationOf, hr, hstart.idle, hok, State.fall, hstart.rxPrev, hstart.low]
  rw [hop]
  rfl

section InFrame

variable {s t u : State} {p m : Nat}

/-- The start tick begins the frame: no bit sampled, and the first wait H + F (`40_idle_and_start.md` R132). -/
theorem start_inFrame (hs : BufferInv s) (hstart : StartsFrame s) (hu : Undisturbed s.input)
    (h : step s = .next t) : InFrame s 0 1 t := by
  obtain ⟨hframe, -⟩ := step_operation hu.rst h (exec_opOf_start hstart hu.rst)
  exact {
    toTicksAfter := (ticksAfter_zero hs).step hu h
    le := Nat.zero_le _
    sampling := fun _ => ⟨hframe.seq, by rw [hframe.bitIdx]; rfl⟩
    stopping := fun h => absurd h (by decide)
    due := by
      have hload : t.timer.toNat = s.halfDelay.toNat + s.fullDelay.toNat := by
        rw [hframe.timer]; exact startLoad_toNat ..
      rw [hload, sampleTick, Nat.zero_mul, Nat.add_zero, Nat.add_comm]
    shreg := fun k => by rw [hframe.shreg]; simp }

theorem InFrame.seq_ne_idle (hf : InFrame s p m t) : t.seq ≠ .idle := by
  rcases Nat.lt_or_eq_of_le hf.le with h | h
  · rw [(hf.sampling h).1]; decide
  · rw [(hf.stopping h).1]; decide

/-- The inputs of the next tick are those of tick `m` of the frame. -/
theorem InFrame.input (hf : InFrame s p m t) : t.input = s.inputAt m := hf.inputs 0

theorem InFrame.le_sampleTick (hf : InFrame s p m t) : m ≤ sampleTick s.halfDelay s.fullDelay 8 := by
  have hp := sampleTick_mono s.halfDelay s.fullDelay hf.le
  have hw := waitTicks_pos t.timer.toNat
  have hd := hf.due
  omega

/-- A wait that ends at this tick ends on time. -/
theorem InFrame.at_sampleTick (hf : InFrame s p m t) (hend : t.timer.toNat ≤ 1) :
    m = sampleTick s.halfDelay s.fullDelay p :=
  Nat.add_right_cancel (by rw [← hf.due, waitTicks_of_le hend] : m + 1 = _ + 1)

/-- One more tick of a wait. -/
theorem InFrame.wait (hf : InFrame s p m t) (hu : Undisturbed t.input) (h : step t = .next u)
    (hwait : 2 ≤ t.timer.toNat) : InFrame s p (m + 1) u := by
  obtain ⟨hframe, -⟩ := step_operation hu.rst h (exec_opOf_wait hu.rst hf.seq_ne_idle hwait)
  exact {
    toTicksAfter := hf.toTicksAfter.step hu h
    le := hf.le
    sampling := fun hp => by rw [hframe.seq, hframe.bitIdx]; exact hf.sampling hp
    stopping := fun hp => by rw [hframe.seq, hframe.stopCnt]; exact hf.stopping hp
    due := by
      have htimer : u.timer.toNat = t.timer.toNat - 1 := by
        rw [hframe.timer]
        exact BitVec.toNat_sub_of_le (show 1 ≤ t.timer.toNat by omega)
      rw [← hf.due, htimer, waitTicks_of_ge hwait, waitTicks, Nat.max_eq_left (by omega)]
      omega
    shreg := fun k => by rw [hframe.shreg]; exact hf.shreg k }

/-- The tick that ends a wait for a data bit samples it. -/
theorem InFrame.sample (hf : InFrame s p m t) (hu : Undisturbed t.input) (h : step t = .next u)
    (hend : t.timer.toNat ≤ 1) (hp : p < 8) : InFrame s (p + 1) (m + 1) u := by
  obtain ⟨hseq, hidx⟩ := hf.sampling hp
  have hm := hf.at_sampleTick hend
  obtain ⟨a, ha, hbit⟩ := exec_opOf_sample (s := t.consumed) hu.rst hseq hend
  obtain ⟨hframe, -⟩ := step_operation hu.rst h ha
  exact {
    toTicksAfter := hf.toTicksAfter.step hu h
    le := hp
    sampling := fun hp' => by
      obtain ⟨hs, hi⟩ := hbit.more (show t.bitIdx.toNat < 7 by omega)
      exact ⟨hframe.seq.trans hs, by rw [hframe.bitIdx, hi]; exact congrArg (· + 1) hidx⟩
    stopping := fun hp' => by
      obtain ⟨hs, hc⟩ := hbit.last (show t.bitIdx.toNat = 7 by omega)
      exact ⟨hframe.seq.trans hs, hframe.stopCnt.trans hc⟩
    due := by
      rw [hframe.timer, hbit.timer, delayLoad_toNat, consumed_fullDelay, hf.fullDelay, sampleTick_succ, hm]
      omega
    shreg := fun k => by
      rw [hframe.shreg, hbit.shreg, BitVec.getLsbD_or, dataBit_getLsbD, consumed_shreg, consumed_bitIdx, hf.shreg,
        hidx, hf.input, hm]
      rcases Nat.lt_trichotomy k p with hlt | rfl | hgt
      · simp [hlt, Nat.lt_succ_of_lt hlt, Nat.ne_of_lt hlt]
      · simp
      · simp [Nat.not_lt_of_gt hgt, Nat.ne_of_gt hgt, Nat.not_lt.mpr hgt] }

/-- The tick that ends the first stop delay completes the decoding. -/
theorem InFrame.stop (hf : InFrame s 8 m t) (hu : Undisturbed t.input) (h : step t = .next u)
    (hend : t.timer.toNat ≤ 1) : Decoded s u := by
  obtain ⟨hseq, hcnt⟩ := hf.stopping rfl
  obtain ⟨a, -, ha, -, hframe, hvalid, -⟩ := step_parts hu.rst h
  obtain ⟨hshreg, hsample⟩ := exec_opOf_stopSample (s := t.consumed) hu.rst hseq hcnt hend ha
  refine ⟨fun k hk => ?_, ?_⟩
  · rw [hframe.shreg, hshreg, consumed_shreg, hf.shreg]
    simp [hk]
  · rw [hvalid, hsample, hf.input, hf.at_sampleTick hend]

/-- A frame in progress is decoded when its remaining `r` ticks have passed. -/
theorem InFrame.decodes {n : Nat} (hn : n = sampleTick s.halfDelay s.fullDelay 8 + 1)
    (quiet : ∀ j < n, Undisturbed (s.inputAt j)) (r : Nat) (hf : InFrame s p m t) (hm : m + r = n) :
    ∃ u, after r t = .next u ∧ Decoded s u := by
  induction r generalizing p m t with
  | zero =>
    have := hf.le_sampleTick
    omega
  | succ r ih =>
    have hu : Undisturbed t.input := by rw [hf.input]; exact quiet m (by omega)
    obtain ⟨u, h⟩ := step_next_of_bufferInv hf.bufferInv
    rw [after_succ, h]
    by_cases hwait : 2 ≤ t.timer.toNat
    · exact ih (hf.wait hu h hwait) (by omega)
    have hend : t.timer.toNat ≤ 1 := by omega
    rcases Nat.lt_or_eq_of_le hf.le with hp | rfl
    · exact ih (hf.sample hu h hend hp) (by omega)
    · have hlast : r = 0 := by
        have := hf.at_sampleTick hend
        omega
      subst hlast
      exact ⟨u, rfl, hf.stop hu h hend⟩

end InFrame

/-! ### Unlisted addresses and reserved bits -/

theorem ignoredWrite_of_ne {a : Half} (h0 : a ≠ 0#16) (h1 : a ≠ 1#16) (h2 : a ≠ 2#16) :
    ignoredWrite a = true := by
  simp only [ignoredWrite, decide_eq_true_eq]
  bv_omega

/-- The index of a window address is its distance from 0x8000 (`20_memory.md` R63). -/
theorem windowIndex_toNat {a : Half} (h : 0x8000 ≤ a.toNat) : (windowIndex a).toNat = a.toNat - 0x8000 := by
  have ha := a.isLt
  rw [windowIndex, BitVec.extractLsb'_toNat]
  omega

theorem windowAddr_toNat (index : BitVec 15) : (windowAddr index).toNat = 0x8000 + index.toNat := by
  rw [windowAddr, BitVec.toNat_append, ← Nat.shiftLeft_add_eq_or_of_lt index.isLt]
  rfl

/-- The window shows 0 beyond the buffer (`20_memory.md` R63). -/
theorem memRead_beyond {s : State} {index : BitVec 15} (h : s.capacity ≤ index.toNat) :
    s.memRead (windowAddr index) = 0 := by
  have hn : ∀ k : Half, k.toNat < 10 → windowAddr index ≠ k :=
    ne_of_le (by rw [windowAddr_toNat]; omega)
  have hout : s.inBuffer index.toNat = false := by rw [← Bool.not_eq_true, inBuffer_iff]; omega
  simp [State.memRead, hn 0#16 (by decide), hn 1#16 (by decide), hn 2#16 (by decide), hn 3#16 (by decide),
    hn 4#16 (by decide), hn 5#16 (by decide), hn 6#16 (by decide), hn 7#16 (by decide), hn 8#16 (by decide),
    hn 9#16 (by decide), hout]

/-- A bus word decodes to a bus command (`30_encoding.md` R96). -/
theorem decodeB_isOperation {w : BWord} {i : Instr} (h : decodeB w = .ok i) : i.isOperation = false := by
  rw [← bWord_fields w, decodeB_bWord] at h; cases h
  exact commandOf_isOperation ..

theorem ctrlWord_lt (s : State) : s.ctrlWord.toNat < 8 := by
  have h : ∀ x y z : Bool, (0#13 ++ BitVec.ofBool x ++ BitVec.ofBool y ++ BitVec.ofBool z).toNat < 8 := by decide
  exact h ..

/-- `CTRL` takes bits 2 to 0 of what is written to it (`10_state.md` R39). -/
theorem memWrite_ctrl_and (s : State) (d : Half) : s.memWrite 2#16 (d &&& 7#16) = s.memWrite 2#16 d := by
  have hbit : ∀ i < 3, (d &&& 7#16).getLsbD i = d.getLsbD i := by
    intro i hi
    have h7 : ∀ i < 3, (7#16).getLsbD i = true := by decide
    rw [BitVec.getLsbD_and, h7 i hi, Bool.and_true]
  simp only [State.memWrite, hbit 0 (by decide), hbit 1 (by decide), hbit 2 (by decide)]
  rfl

/-! ### The statements -/

/-- Settles O45: the row of each address is `commandOf`, and no row's command stops (`30_encoding.md` R103). -/
theorem unlistedAddressesAndReservedBitsAreHarmless : Obligations.UnlistedAddressesAndReservedBitsAreHarmless := by
  refine ⟨fun s a d h0 h1 h2 => ⟨?_, rfl⟩, fun s a d ha => ?_, fun s w i h => ?_, fun s t h => ?_, fun s d => ?_⟩
  · rw [decodeB_bWord, commandOf_ignored (ignoredWrite_of_ne h0 h1 h2)]
  · rcases ha with ⟨hlo, hhi⟩ | hbeyond
    · have hres : reservedRead a = true := by
        simp only [reservedRead, Bool.and_eq_true, decide_eq_true_eq, BitVec.le_def]
        exact ⟨hlo, hhi⟩
      exact ⟨_, by rw [decodeB_bWord, commandOf_reserved hres], rfl⟩
    · have hwin : 0x8000#16 ≤ a := by
        rw [BitVec.le_def]
        exact Nat.le_trans (Nat.le_add_right ..) hbeyond
      refine ⟨.rdBuf (windowIndex a), by rw [decodeB_bWord, commandOf_above (by omega), if_pos hwin], ?_⟩
      have hidx : s.capacity ≤ (windowIndex a).toNat := by rw [windowIndex_toNat (by omega)]; omega
      show Host.Outcome.next (s.driveRdata (s.memRead (windowAddr (windowIndex a)))) = _
      rw [memRead_beyond hidx]
      rfl
  · obtain ⟨t, ht, -⟩ := command_next i (decodeB_isOperation h) s
    exact ⟨t, ht⟩
  · cases h
    exact ctrlWord_lt s
  · show s.busWrite 2#16 d = s.busWrite 2#16 (d &&& 7#16)
    rw [State.busWrite, State.busWrite, memWrite_ctrl_and]

/-- Settles O49: the start tick puts the frame under `InFrame`, which every tick keeps until the stop-bit sample
(`30_encoding.md` R102). -/
theorem frameIsDecodedByTimeAlone : Obligations.FrameIsDecodedByTimeAlone := by
  refine ⟨fun _ _ _ => rfl, sampleTick_of_pos, fun s n hs hstart hn hr hk => ?_⟩
  have quiet : ∀ j < n, Undisturbed (s.inputAt j) := fun j hj => undisturbed_inputAt hr hk hj
  obtain ⟨t, ht⟩ := step_next_of_bufferInv hs
  have hf := start_inFrame hs hstart (quiet 0 (by omega)) ht
  obtain ⟨u, hu, hdecoded⟩ := hf.decodes hn quiet (n - 1) (by omega)
  refine ⟨u, ?_, hdecoded⟩
  rw [show n = n - 1 + 1 by omega, after_succ, ht]
  exact hu

end Sys2Proof.Proofs

/-! PROOFS. The statement of `40_idle_and_start.md`: the pin sampler runs at every tick (R130). -/

namespace Sys2Proof.Proofs

open Sys2Proof Sys2Proof.Machine Sys2Proof.Laws

/-- The instruction, where it answers a next state, leaves `rx` in `RX_PREV` (`40_idle_and_start.md` R130). -/
def SamplesPin (rx : Bool) (s : State) (i : Instr) : Prop := ∀ a, exec i s = .next a → a.rxPrev = rx

theorem commit_rxPrev {s t : State} (h : s.commit = .next t) : t.rxPrev = s.rxPrev := by
  obtain ⟨u, hu, rfl⟩ := commit_next h
  obtain ⟨-, hpin, -⟩ := append_frame hu
  exact hpin

/-- Every operation but RST includes the pin sampler. IDLE.START has no operand `rx`, and samples the LOW that selects
it; a commit keeps the sample taken before it. -/
theorem opOf_samplesPin (s : State) {inp : Inputs} (hr : inp.rst = false) : SamplesPin inp.rx s (opOf s inp) := by
  rw [opOf, hr]
  refine operation_cases s inp.rx (SamplesPin inp.rx s)
    (start := fun _ _ _ hlow _ h => ?start)
    (poll := fun _ _ _ h => ?poll)
    (sampWait := fun _ _ _ h => ?sampWait)
    (sampBit := fun _ _ _ _ h => ?sampBit)
    (sampLast := fun _ _ _ _ h => ?sampLast)
    (stopWait := fun _ _ _ h => ?stopWait)
    (stopNext := fun _ _ _ _ _ h => ?stopNext)
    (done1 := fun _ _ _ _ _ h => (commit_rxPrev h).trans (stopSample_rxPrev ..))
    (done2 := fun _ _ _ _ h => commit_rxPrev h)
  case start => cases h; exact hlow.symm
  case poll | sampWait | sampBit | sampLast | stopWait => cases h; rfl
  case stopNext => cases h; exact stopSample_rxPrev ..

/-- Settles O20: RST clears `RX_PREV`; every other operation samples the pin, and the bus command of the tick does not
reach `RX_PREV` (`40_idle_and_start.md` R130; `10_state.md` R52). -/
theorem pinSamplerFollowsRxEveryTick : Obligations.PinSamplerFollowsRxEveryTick := by
  intro s t h
  rcases step_cases h with ⟨hr, hrst⟩ | ⟨hr, a, b, ha, -, hjoin⟩
  · rw [hr]; cases hrst
    rfl
  · have hpin : a.rxPrev = s.input.rx := opOf_samplesPin s.consumed hr a ha
    rw [joinTick_next] at hjoin; cases hjoin
    rw [hr]
    exact hpin

end Sys2Proof.Proofs

/-! PROOFS. The statements of `41_sampling.md`: `TIMER` never wraps (R155), and a wait lasts exactly its load
(R156). -/

namespace Sys2Proof.Proofs

open Sys2Proof Sys2Proof.Machine Sys2Proof.Laws

/-! ### What an operation does to `TIMER` -/

/-- The ways in which a tick that is not RST leaves `TIMER`, each with the condition of the operations that do so
(`41_sampling.md` R155). -/
inductive TimerMove (s t : State) : Prop
  | kept (timer : t.timer = s.timer)
  | counted (waiting : 2 ≤ s.timer.toNat) (timer : t.timer = s.timer - 1)
  | startLoaded (idle : s.seq = .idle) (timer : t.timer = startLoad s.halfDelay s.fullDelay)
  | delayLoaded (busy : s.seq ≠ .idle) (timer : t.timer = delayLoad s.fullDelay)

/-- The instruction, where it answers a next state, moves `TIMER` in one of these ways. -/
def MovesTimer (s : State) (i : Instr) : Prop := ∀ a, exec i s = .next a → TimerMove s a

/-- A commit does not write `TIMER` (`42_stop_and_commit.md` R173, R174). -/
theorem commit_timer {s t : State} (h : s.commit = .next t) : t.timer = s.timer := by
  obtain ⟨u, hu, rfl⟩ := commit_next h
  obtain ⟨hframe, -⟩ := append_frame hu
  exact hframe.timer

/-- The row of an operation that counts or loads `TIMER` has the condition under which it may. -/
theorem opOf_movesTimer (s : State) {inp : Inputs} (hr : inp.rst = false) : MovesTimer s (opOf s inp) := by
  have busy {q : SeqState} (hq : s.seq = q) (hne : q ≠ .idle) : s.seq ≠ .idle := hq ▸ hne
  rw [opOf, hr]
  refine operation_cases s inp.rx (MovesTimer s)
    (start := fun hq _ _ _ _ h => ?start)
    (poll := fun _ _ _ h => ?poll)
    (sampWait := fun _ hwait _ h => ?sampWait)
    (sampBit := fun hq _ _ _ h => ?sampBit)
    (sampLast := fun hq _ _ _ h => ?sampLast)
    (stopWait := fun _ hwait _ h => ?stopWait)
    (stopNext := fun hq _ _ _ _ h => ?stopNext)
    (done1 := fun _ _ _ _ _ h => .kept ((commit_timer h).trans (stopSample_timer ..)))
    (done2 := fun _ _ _ _ h => .kept (commit_timer (s := s.samplePin inp.rx) h))
  case start => cases h; exact .startLoaded hq rfl
  case poll => cases h; exact .kept rfl
  case sampWait | stopWait => cases h; exact .counted hwait rfl
  case sampBit | sampLast | stopNext => cases h; exact .delayLoaded (busy hq (by decide)) rfl

/-- `TIMER` moves as the operation of the tick moves it; the bus command does not reach it (`10_state.md` R52). -/
theorem step_timerMove {s t : State} (hr : s.input.rst = false) (h : step s = .next t) : TimerMove s t := by
  obtain ⟨a, -, ha, -, hframe, -⟩ := step_parts hr h
  have htimer : t.timer = a.timer := hframe.timer
  cases opOf_movesTimer s.consumed hr a ha with
  | kept timer => exact .kept (htimer.trans timer)
  | counted waiting timer => exact .counted waiting (htimer.trans timer)
  | startLoaded idle timer => exact .startLoaded idle (htimer.trans timer)
  | delayLoaded busy timer => exact .delayLoaded busy (htimer.trans timer)

/-- Counting down from 2 or more does not wrap (`41_sampling.md` R155). -/
theorem timer_sub_one_toNat {s : State} (h : 2 ≤ s.timer.toNat) : (s.timer - 1).toNat = s.timer.toNat - 1 :=
  BitVec.toNat_sub_of_le (show 1 ≤ s.timer.toNat by omega)

/-! ### A wait -/

/-- `t` is what `k` ticks of a wait make of `s`: `TIMER` is `k` less, and of the other elements that a receiver
operation writes only `RX_PREV` may differ (`41_sampling.md` R150; `42_stop_and_commit.md` R170). -/
structure WaitedFor (k : Nat) (s t : State) : Prop extends SameFlags s t, SameStore s t where
  timer : t.timer.toNat = s.timer.toNat - k
  seq : t.seq = s.seq
  bitIdx : t.bitIdx = s.bitIdx
  stopCnt : t.stopCnt = s.stopCnt
  shreg : t.shreg = s.shreg

theorem waitedFor_zero (s : State) : WaitedFor 0 s s :=
  ⟨⟨rfl, rfl, rfl⟩, ⟨⟨fun _ => rfl, fun _ => rfl⟩, rfl, rfl⟩, rfl, rfl, rfl, rfl, rfl⟩

theorem WaitedFor.trans {j k : Nat} {s t u : State} (h : WaitedFor j s t) (h' : WaitedFor k t u) :
    WaitedFor (j + k) s u where
  frameValid := h'.frameValid.trans h.frameValid
  framingError := h'.framingError.trans h.framingError
  bufferFull := h'.bufferFull.trans h.bufferFull
  entry := fun i => (h'.entry i).trans (h.entry i)
  byte := fun i => (h'.byte i).trans (h.byte i)
  count := h'.count.trans h.count
  wptr := h'.wptr.trans h.wptr
  timer := by rw [h'.timer, h.timer, Nat.sub_sub]
  seq := h'.seq.trans h.seq
  bitIdx := h'.bitIdx.trans h.bitIdx
  stopCnt := h'.stopCnt.trans h.stopCnt
  shreg := h'.shreg.trans h.shreg

/-- A wait that has not reached its last tick lasts one tick more, whatever the line and the host do. -/
theorem step_wait {s : State} (hr : s.input.rst = false) (hq : s.seq ≠ .idle) (hwait : 2 ≤ s.timer.toNat) :
    ∃ t, step s = .next t ∧ WaitedFor 1 s t := by
  obtain ⟨b, hb, -⟩ := command_next (cmdOf s.input) (commandOf_isOperation ..) s.consumed
  refine ⟨_, by rw [step_eq, hr, exec_opOf_wait (s := s.consumed) hr hq hwait, hb]; rfl, ?_⟩
  exact ⟨⟨rfl, rfl, rfl⟩, ⟨⟨fun _ => rfl, fun _ => rfl⟩, rfl, rfl⟩, timer_sub_one_toNat hwait, rfl, rfl, rfl, rfl⟩

theorem noReset_step {s t : State} {k : Nat} (hr : NoReset s (k + 1)) (h : step s = .next t) : NoReset t k :=
  fun j hj => by
    rw [step_inputAt (hr 0 (Nat.succ_pos k)) h]
    exact hr (j + 1) (Nat.succ_lt_succ hj)

/-- The ticks before the last one of a wait only wait. -/
theorem after_waitedFor {s : State} {k : Nat} (hq : s.seq ≠ .idle) (hr : NoReset s k)
    (hk : k < waitTicks s.timer.toNat) : ∃ t, after k s = .next t ∧ WaitedFor k s t := by
  induction k generalizing s with
  | zero => exact ⟨s, rfl, waitedFor_zero s⟩
  | succ k ih =>
    have hwait : k + 2 ≤ s.timer.toNat := by rw [waitTicks] at hk; omega
    obtain ⟨u, hu, hsu⟩ := step_wait (hr 0 (Nat.succ_pos k)) hq (by omega)
    have hku : k < waitTicks u.timer.toNat := by rw [hsu.timer, waitTicks]; omega
    obtain ⟨t, ht, hut⟩ := ih (by rw [hsu.seq]; exact hq) (noReset_step hr hu) hku
    refine ⟨t, by rw [after_succ, hu]; exact ht, ?_⟩
    rw [Nat.add_comm]
    exact hsu.trans hut

/-- The wait ends at the tick that completes its load. -/
theorem WaitedFor.texp_iff_last {s t : State} {k : Nat} (h : WaitedFor k s t) (hk : k < waitTicks s.timer.toNat) :
    t.texp = true ↔ k + 1 = waitTicks s.timer.toNat := by
  rw [texp_iff, h.timer]
  rw [waitTicks] at hk ⊢
  omega

/-! ### The statements -/

/-- Settles O19, by `step_timerMove`: the one decrement is from 2 or more, and both loads are exact
(`41_sampling.md` R155). -/
theorem timerNeverWraps : Obligations.TimerNeverWraps := by
  refine fun s t h => ⟨fun hr => ?_, fun hr => ?_⟩
  · rw [step_of_rst hr] at h; cases h
    rfl
  · cases step_timerMove hr h with
    | kept timer =>
      rw [timer]
      exact ⟨.inl rfl, .inl⟩
    | counted waiting timer =>
      rw [timer, timer_sub_one_toNat waiting]
      exact ⟨.inr (.inl ⟨waiting, rfl, by omega⟩), by omega⟩
    | startLoaded idle timer =>
      have hH := s.halfDelay.isLt
      have hF := s.fullDelay.isLt
      rw [timer, startLoad_toNat]
      exact ⟨.inr (.inr (.inl ⟨idle, rfl, by omega⟩)), by omega⟩
    | delayLoaded busy timer =>
      rw [timer, delayLoad_toNat]
      exact ⟨.inr (.inr (.inr ⟨busy, rfl⟩)), .inr⟩

/-- Settles O48: `after_waitedFor` runs the wait, and `WaitedFor.texp_iff_last` tells its last tick (`41_sampling.md`
R156). -/
theorem waitLastsExactlyItsLoad : Obligations.WaitLastsExactlyItsLoad := by
  intro s k hq hr hk
  obtain ⟨t, ht, hw⟩ := after_waitedFor hq hr hk
  exact ⟨t, ht, hw.timer, hw.seq, hw.bitIdx, hw.stopCnt, hw.shreg, hw.toSameFlags, hw.toSameStore, hw.texp_iff_last hk⟩

end Sys2Proof.Proofs

/-! PROOFS. The statement of `42_stop_and_commit.md`: the sequencer's only control transfers (R176). -/

namespace Sys2Proof.Proofs

open Sys2Proof Sys2Proof.Machine Sys2Proof.Laws

/-- The move of `STATE` from `p` to `q` that an instruction may make: the four control transfers, RST, and none
otherwise (`42_stop_and_commit.md` R176). -/
def SeqMove (p q : SeqState) : Instr → Prop
  | .rst => q = .idle
  | .idleStart => p = .idle ∧ q = .sampling
  | .sampLast _ => p = .sampling ∧ q = .stopWait
  | .stopDone1 _ | .stopDone2 _ => p = .stopWait ∧ q = .idle
  | _ => q = p

/-- The instruction, where it answers a next state, makes its move of `STATE`. -/
def MovesSeq (s : State) (i : Instr) : Prop := ∀ a, exec i s = .next a → SeqMove s.seq a.seq i

/-- A commit ends the frame (`42_stop_and_commit.md` R173, R174). -/
theorem commit_seq {s t : State} (h : s.commit = .next t) : t.seq = .idle := by
  obtain ⟨u, -, rfl⟩ := commit_next h
  rfl

/-- The targets are constants of the operations, and the sources are in the rows that select them
(`30_encoding.md` R92). -/
theorem opOf_movesSeq (s : State) {inp : Inputs} (hr : inp.rst = false) : MovesSeq s (opOf s inp) := by
  rw [opOf, hr]
  refine operation_cases s inp.rx (MovesSeq s)
    (start := fun hq _ _ _ _ h => ⟨hq, ?start⟩)
    (poll := fun _ _ _ h => ?poll)
    (sampWait := fun _ _ _ h => ?sampWait)
    (sampBit := fun _ _ _ _ h => ?sampBit)
    (sampLast := fun hq _ _ _ h => ⟨hq, ?sampLast⟩)
    (stopWait := fun _ _ _ h => ?stopWait)
    (stopNext := fun _ _ _ _ _ h => ?stopNext)
    (done1 := fun hq _ _ _ _ h => ⟨hq, commit_seq h⟩)
    (done2 := fun hq _ _ _ h => ⟨hq, commit_seq h⟩)
  case start | poll | sampWait | sampBit | sampLast | stopWait => cases h; rfl
  case stopNext => cases h; exact stopSample_seq ..

/-- `STATE` moves as the operation of the tick moves it; the bus command does not reach it (`10_state.md` R52). -/
theorem step_seqMove {s t : State} (h : step s = .next t) : SeqMove s.seq t.seq (opOf s.consumed s.input) := by
  cases hr : s.input.rst with
  | true =>
    rw [step_of_rst hr] at h; cases h
    rw [opOf, hr]
    exact rfl
  | false =>
    obtain ⟨a, -, ha, -, hframe, -⟩ := step_parts hr h
    rw [hframe.seq]
    exact opOf_movesSeq s.consumed hr a ha

/-- Only RST and the four control transfers change `STATE`. -/
theorem SeqMove.of_ne {p q : SeqState} {op : Instr} (h : SeqMove p q op) (hne : q ≠ p) :
    op = .rst ∨ op = .idleStart ∨ ∃ rx, op = .sampLast rx ∨ op = .stopDone1 rx ∨ op = .stopDone2 rx := by
  cases op with
  | rst => exact .inl rfl
  | idleStart => exact .inr (.inl rfl)
  | sampLast rx => exact .inr (.inr ⟨rx, .inl rfl⟩)
  | stopDone1 rx => exact .inr (.inr ⟨rx, .inr (.inl rfl)⟩)
  | stopDone2 rx => exact .inr (.inr ⟨rx, .inr (.inr rfl)⟩)
  | _ => exact absurd h hne

/-- Settles O18, by `step_seqMove`: the operation that the selector word names makes its move of `STATE`
(`42_stop_and_commit.md` R176). -/
theorem sequencerMovesOnlyByItsFourTransfers : Obligations.SequencerMovesOnlyByItsFourTransfers := by
  intro s t op hop h
  have hsel : opOf s.consumed s.input = op := Except.ok.inj ((decodeT_selector ..).symm.trans hop)
  have hmove : SeqMove s.seq t.seq op := hsel ▸ step_seqMove h
  refine ⟨?_, ?_, ?_, ?_, hmove.of_ne⟩
  · rintro rfl; exact hmove
  · rintro rfl; exact hmove
  · rintro rx rfl; exact hmove
  · rintro rx (rfl | rfl) <;> exact hmove

end Sys2Proof.Proofs

/-! PROOFS. The statements of `30_encoding.md`: the two opcode tables are total but for the reserved state code, decode
what the encoder writes, and overlap in one place (R92, R93, R96, R104); format I (R107). -/

namespace Sys2Proof.Proofs

open Sys2Proof Sys2Proof.Machine Sys2Proof.Laws

/-! ### Rows of the operation table -/

/-- A word hits a row if it has the row's value at each bit the row looks at (`30_encoding.md` R92). -/
theorem hits_of_bits {r : OpRow 10} (hr : r ∈ tRows) {w : TWord}
    (h : ∀ i : Fin 10, r.mask.getLsbD i = true → w.getLsbD i = r.value.getLsbD i) : r.hits w = true := by
  have valueInMask : ∀ r ∈ tRows, ∀ i : Fin 10, r.mask.getLsbD i = false → r.value.getLsbD i = false := by decide
  rw [OpRow.hits, beq_iff_eq]
  refine BitVec.eq_of_getLsbD_eq fun i hi => ?_
  rw [BitVec.getLsbD_and]
  cases hm : r.mask.getLsbD i with
  | false => rw [valueInMask r hr ⟨i, hi⟩ hm, Bool.and_false]
  | true => rw [h ⟨i, hi⟩ hm, Bool.and_true]

/-- The rows of each state code cover it: by `texp`, then by `last`, or by `STOPCNT` and `STOP2`. -/
theorem exists_row {w : TWord} (h : w[9] = true ∨ ¬ (w[6] = true ∧ w[5] = true)) : ∃ r ∈ tRows, r.hits w = true := by
  have row (k : Fin 10)
      (hk : ∀ i : Fin 10, tRows[k].mask.getLsbD i = true → w.getLsbD i = tRows[k].value.getLsbD i) :
      ∃ r ∈ tRows, r.hits w = true := ⟨tRows[k], List.getElem_mem _, hits_of_bits (List.getElem_mem _) hk⟩
  cases h9 : w[9] with
  | true => exact row 0 (by simp [tRows, Fin.forall_fin_succ, h9])
  | false =>
    cases h6 : w[6] <;> cases h5 : w[5]
    case false.false => exact row 2 (by simp [tRows, Fin.forall_fin_succ, h9, h6, h5])
    case false.true =>
      cases h4 : w[4]
      · exact row 3 (by simp [tRows, Fin.forall_fin_succ, h9, h6, h5, h4])
      · cases h3 : w[3]
        · exact row 4 (by simp [tRows, Fin.forall_fin_succ, h9, h6, h5, h4, h3])
        · exact row 5 (by simp [tRows, Fin.forall_fin_succ, h9, h6, h5, h4, h3])
    case true.false =>
      cases h4 : w[4]
      · exact row 6 (by simp [tRows, Fin.forall_fin_succ, h9, h6, h5, h4])
      · cases h2 : w[2]
        · cases h1 : w[1]
          · exact row 8 (by simp [tRows, Fin.forall_fin_succ, h9, h6, h5, h4, h2, h1])
          · exact row 7 (by simp [tRows, Fin.forall_fin_succ, h9, h6, h5, h4, h2, h1])
        · exact row 9 (by simp [tRows, Fin.forall_fin_succ, h9, h6, h5, h4, h2])
    case true.true => simp [h9, h6, h5] at h

/-- No row but RST looks for state code 3 (`30_encoding.md` R93, R104). -/
theorem not_reserved_of_hits {w : TWord} {r : OpRow 10} (hr : r ∈ tRows) (hw : r.hits w = true) :
    w[9] = true ∨ ¬ (w[6] = true ∧ w[5] = true) := by
  have rows : ∀ r ∈ tRows, r.value[9] = true ∨
      r.mask[6] = true ∧ r.mask[5] = true ∧ ¬ (r.value[6] = true ∧ r.value[5] = true) := by decide
  rw [OpRow.hits, beq_iff_eq] at hw
  rcases rows r hr with h9 | ⟨h6, h5, hv⟩
  · rw [← hw, BitVec.getElem_and, Bool.and_eq_true] at h9
    exact .inl h9.1
  · rw [← hw, BitVec.getElem_and, BitVec.getElem_and, h6, h5, Bool.and_true, Bool.and_true] at hv
    exact .inr hv

theorem decodeT_ok_iff (w : TWord) : (∃ i, decodeT w = .ok i) ↔ ∃ r ∈ tRows, r.hits w = true := by
  rw [← List.find?_isSome, decodeT]
  cases tRows.find? (fun r => r.hits w) <;> simp

/-- The state field of a T word is the reserved code when both its bits are set. -/
theorem stateField_eq_three_iff (w : TWord) : w.extractLsb' 5 2 = 3#2 ↔ w[6] = true ∧ w[5] = true := by
  constructor
  · intro h
    exact ⟨by simpa using congrArg (·.getLsbD 1) h, by simpa using congrArg (·.getLsbD 0) h⟩
  · rintro ⟨h6, h5⟩
    refine BitVec.eq_of_getLsbD_eq fun i hi => ?_
    obtain rfl | rfl : i = 0 ∨ i = 1 := by omega
    · simpa using h5
    · simpa using h6

/-! ### Operands of the commands that the bus table gives -/

theorem reservedRead_of_ne {a : Half} (h0 : a ≠ 0#16) (h1 : a ≠ 1#16) (h2 : a ≠ 2#16) (h3 : a ≠ 3#16) (h4 : a ≠ 4#16)
    (h5 : a ≠ 5#16) (h6 : a ≠ 6#16) (h7 : a ≠ 7#16) (h8 : a ≠ 8#16) (h9 : a ≠ 9#16) (hwin : ¬ 0x8000#16 ≤ a) :
    reservedRead a = true := by
  simp only [reservedRead, Bool.and_eq_true, decide_eq_true_eq]
  bv_omega

/-- WR.IGN and RD.RSVD come after the rows of the addresses that they cannot have (`30_encoding.md` R96). -/
theorem commandOf_wellFormed (v e : Bool) (a d : Half) : (commandOf v e a d).wellFormed = true := by
  have row {c : Prop} [Decidable c] {i j : Instr} (hi : i.wellFormed = true) (hj : ¬ c → j.wellFormed = true) :
      (if c then i else j).wellFormed = true := by
    split
    · exact hi
    · exact hj ‹_›
  have write : (commandOf true true a d).wellFormed = true := by
    rw [commandOf, if_neg (by decide), if_pos rfl]
    exact row rfl fun h0 => row rfl fun h1 => row rfl fun h2 => ignoredWrite_of_ne h0 h1 h2
  have read : (commandOf true false a d).wellFormed = true := by
    rw [commandOf, if_neg (by decide), if_neg (by decide)]
    exact row rfl fun h0 => row rfl fun h1 => row rfl fun h2 => row rfl fun h3 => row rfl fun h4 => row rfl fun h5 =>
      row rfl fun h6 => row rfl fun h7 => row rfl fun h8 => row rfl fun h9 => row rfl fun hwin =>
        reservedRead_of_ne h0 h1 h2 h3 h4 h5 h6 h7 h8 h9 hwin
  cases v with
  | false => rfl
  | true => cases e with
    | false => exact read
    | true => exact write

/-! ### Format I -/

/-- The bits of a format-I word below `rx` are those of the bus word. -/
theorem toWord_getLsbD (inp : Inputs) {i : Nat} (h : i < 34) : inp.toWord.getLsbD i = inp.busWord.getLsbD i := by
  rw [Inputs.toWord, BitVec.getLsbD_append]
  simp [h]

theorem ofWord_toWord (inp : Inputs) : Inputs.ofWord inp.toWord = inp := by
  have rst : inp.toWord.getLsbD 35 = inp.rst := by
    rw [Inputs.toWord, BitVec.getLsbD_append, BitVec.getLsbD_append]; simp
  have rx : inp.toWord.getLsbD 34 = inp.rx := by
    rw [Inputs.toWord, BitVec.getLsbD_append, BitVec.getLsbD_append]; simp
  have field (lo : Nat) (hlo : lo ≤ 16) : inp.toWord.extractLsb' lo 16 = inp.busWord.extractLsb' lo 16 := by
    refine BitVec.eq_of_getLsbD_eq fun i hi => ?_
    rw [BitVec.getLsbD_extractLsb', BitVec.getLsbD_extractLsb', toWord_getLsbD inp (by omega)]
  have valid : inp.toWord.getLsbD 33 = inp.busValid := (toWord_getLsbD inp (by decide)).trans (by simp [Inputs.busWord])
  have we : inp.toWord.getLsbD 32 = inp.busWe := (toWord_getLsbD inp (by decide)).trans (by simp [Inputs.busWord])
  have addr : inp.toWord.extractLsb' 16 16 = inp.busAddr := (field 16 (by decide)).trans (bAddr_bWord ..)
  have wdata : inp.toWord.extractLsb' 0 16 = inp.busWdata := (field 0 (by decide)).trans (bWdata_bWord ..)
  rw [Inputs.ofWord, rst, rx, valid, we, addr, wdata]

theorem toWord_ofWord (w : IWord) : (Inputs.ofWord w).toWord = w := by
  have bus : (Inputs.ofWord w).busWord = w.extractLsb' 0 34 := by
    rw [← bWord_fields (w.extractLsb' 0 34)]
    refine (bWord_inj ..).mpr ⟨?_, ?_, ?_, ?_⟩
    · simp [Inputs.ofWord]
    · simp [Inputs.ofWord]
    · refine BitVec.eq_of_getLsbD_eq fun i hi => ?_
      simp [Inputs.ofWord, bAddr, hi]
    · refine BitVec.eq_of_getLsbD_eq fun i hi => ?_
      simp [Inputs.ofWord, bWdata, hi]
  rw [Inputs.toWord, bus]
  refine BitVec.eq_of_getLsbD_eq fun i hi => ?_
  rw [BitVec.getLsbD_append, BitVec.getLsbD_append]
  by_cases hlow : i < 34
  · simp [hlow]
  · obtain rfl | rfl : i = 34 ∨ i = 35 := by omega
    · simp [Inputs.ofWord]
    · simp [Inputs.ofWord]

/-! ### The statements -/

/-- Settles O1: the operations by their ten words, the bus commands by the case analysis `commandOf` of their fields
(`30_encoding.md` R92, R96). -/
theorem decodeOfEncodeIsIdentity : Obligations.DecodeOfEncodeIsIdentity := by
  intro i hwf
  cases i with
  | rst | idleStart => decide
  | idlePoll rx | sampWait rx | sampBit rx | sampLast rx | stopWait rx | stopNext rx | stopDone1 rx | stopDone2 rx =>
    cases rx <;> decide
  | busNop | rdFull | rdHalf | rdCtrl | rdStatus | rdCount | rdWptr | rdShreg | rdTimerLo | rdTimerHi | rdCapacity =>
    decide
  | wrFull | wrHalf | wrCtrl => exact decodeB_bWord ..
  | wrIgn addr wdata => exact (decodeB_bWord ..).trans (congrArg _ (commandOf_ignored hwf wdata))
  | rdBuf index => exact (decodeB_bWord ..).trans (congrArg _ (commandOf_window index 0))
  | rdRsvd addr => exact (decodeB_bWord ..).trans (congrArg _ (commandOf_reserved hwf 0))

/-- Settles O2: the rows cover every state code but 3, and none but RST hits code 3 (`30_encoding.md` R93, R104). -/
theorem selectorWordDecodesUnlessStateReserved : Obligations.SelectorWordDecodesUnlessStateReserved := by
  intro w
  rw [decodeT_ok_iff, ne_eq, stateField_eq_three_iff, ← BitVec.getLsbD_eq_getElem (h := by decide)]
  exact ⟨fun ⟨_, hr, hw⟩ => not_reserved_of_hits hr hw, exists_row⟩

/-- Settles O3: two rows that hit one word agree where both look, and only these two do so (`30_encoding.md` R92). -/
theorem onlyStartAndPollRowsOverlap : Obligations.OnlyStartAndPollRowsOverlap := by
  have rows : ∀ a ∈ tRows, ∀ b ∈ tRows, a.value &&& b.mask = b.value &&& a.mask →
      a.mnemonic = b.mnemonic ∨ (a.mnemonic = "IDLE.START" ∧ b.mnemonic = "IDLE.POLL") ∨
        (a.mnemonic = "IDLE.POLL" ∧ b.mnemonic = "IDLE.START") := by decide
  intro w a ha b hb hwa hwb
  rw [OpRow.hits, beq_iff_eq] at hwa hwb
  refine rows a ha b hb ?_
  rw [← hwa, ← hwb, BitVec.and_assoc, BitVec.and_assoc, BitVec.and_comm a.mask]

/-- Settles O4, by the fields of the word (`30_encoding.md` R96). -/
theorem everyBusWordIsAWellFormedCommand : Obligations.EveryBusWordIsAWellFormedCommand := by
  intro w
  rw [← bWord_fields w, decodeB_bWord]
  exact ⟨_, rfl, commandOf_isOperation .., commandOf_wellFormed ..⟩

/-- Settles O5, word by word (`95_test_vectors.md` section 2.6). -/
theorem printedWordsDecodeAsPrinted : Obligations.PrintedWordsDecodeAsPrinted :=
  ⟨rfl, rfl, rfl, rfl, rfl, rfl, rfl, rfl, rfl, rfl, rfl, rfl⟩

/-- Settles O6 (`30_encoding.md` R107). -/
theorem formatWordAndTickInputsCorrespond : Obligations.FormatWordAndTickInputsCorrespond :=
  ⟨ofWord_toWord, toWord_ofWord⟩

end Sys2Proof.Proofs

/-! PROOFS. What each receiver operation does and what it leaves unchanged: the statements of `40_idle_and_start.md`,
`41_sampling.md`, `42_stop_and_commit.md` and `43_host_and_reset_ops.md` section 1 about one operation. -/

namespace Sys2Proof.Proofs

open Sys2Proof Sys2Proof.Machine Sys2Proof.Laws

/-! ### What stays the same, composed -/

theorem sameStore_of_eq {s t : State} (buf : t.buf = s.buf) (bufEpoch : t.bufEpoch = s.bufEpoch)
    (count : t.count = s.count) (wptr : t.wptr = s.wptr) : SameStore s t where
  entry := fun i => by rw [buf]
  byte := fun i => by rw [State.bufByte, State.bufByte, buf, bufEpoch]
  count := count
  wptr := wptr

theorem sameStore_trans {s t u : State} (h : SameStore s t) (h' : SameStore t u) : SameStore s u where
  entry := fun i => (h'.entry i).trans (h.entry i)
  byte := fun i => (h'.byte i).trans (h.byte i)
  count := h'.count.trans h.count
  wptr := h'.wptr.trans h.wptr

theorem sameConfig_trans {s t u : State} (h : SameConfig s t) (h' : SameConfig t u) : SameConfig s u where
  fullDelay := h'.fullDelay.trans h.fullDelay
  halfDelay := h'.halfDelay.trans h.halfDelay
  en := h'.en.trans h.en
  stop2 := h'.stop2.trans h.stop2
  ovfHalt := h'.ovfHalt.trans h.ovfHalt
  capacityTop := h'.capacityTop.trans h.capacityTop

theorem sameEnvironment_trans {s t u : State} (h : SameEnvironment s t) (h' : SameEnvironment t u) :
    SameEnvironment s u where
  script := h'.script.trans h.script
  tickNo := h'.tickNo.trans h.tickNo
  bufEpoch := h'.bufEpoch.trans h.bufEpoch

theorem capacity_congr {s t : State} (h : t.capacityTop = s.capacityTop) : t.capacity = s.capacity := by
  rw [State.capacity, State.capacity, h]

/-! ### The samples taken at a tick -/

/-- `u` is `s` after the pin sampler, and perhaps the stop-bit sample, of a tick: they write `RX_PREV`, `FRAME_VALID`,
`FRAMING_ERROR` and the events (`40_idle_and_start.md` R130; `42_stop_and_commit.md` R172). -/
structure Sampled (s u : State) : Prop
    extends SameFrame s u, SameStore s u, SameConfig s u, SameEnvironment s u where
  bufferFull : u.bufferFull = s.bufferFull
  busRdata : u.out.busRdata = s.out.busRdata
  noFullEvent : u.out.bufferFull = false
  notDone : u.out.frameDone = false

theorem samplePin_sampled (s : State) (rx : Bool) : Sampled s (s.samplePin rx) :=
  ⟨⟨rfl, rfl, rfl, rfl, rfl⟩, sameStore_of_eq rfl rfl rfl rfl, ⟨rfl, rfl, rfl, rfl, rfl, rfl⟩, ⟨rfl, rfl, rfl⟩,
    rfl, rfl, rfl, rfl⟩

theorem stopSample_sampled (s : State) (rx : Bool) : Sampled s ((s.samplePin rx).stopSample rx) :=
  ⟨⟨by simp, by simp, by simp, by simp, by simp⟩, sameStore_of_eq (by simp) (by simp) (by simp) (by simp),
    ⟨by simp, by simp, by simp, by simp, by simp, by simp⟩, ⟨by simp, by simp, by simp⟩, by simp, by simp, by simp,
    by simp⟩

/-! ### `Append` and the commit -/

theorem storesAtWptr_of_eq {s t : State} (hw : s.wptr.toNat < s.capacity)
    (buf : t.buf = s.buf.store s.wptr.toNat s.shreg) (bufEpoch : t.bufEpoch = s.bufEpoch)
    (wptr : t.wptr = s.nextWptr) : StoresAtWptr s t where
  entry := by rw [buf, entry_store_same]
  byte := by rw [State.bufByte, buf, entry_store_same]; rfl
  otherEntry := fun i hi => by rw [buf, entry_store_other s.buf s.shreg hi]
  otherByte := fun i hi => by rw [State.bufByte, State.bufByte, buf, bufEpoch, entry_store_other s.buf s.shreg hi]
  wptr := by rw [wptr, nextWptr_toNat s hw]

/-- The three outcomes of `Append(SHREG)` (`42_stop_and_commit.md` R178). -/
theorem appends_of_append {s t : State} (hev : s.out.bufferFull = false) (h : s.append s.shreg = .next t) :
    Appends s t := by
  unfold Appends
  rcases append_cases s s.shreg with ⟨room, hw, e⟩ | ⟨full, hhalt, hw, e⟩ | ⟨full, hhalt, e⟩ | ⟨-, -, e⟩ <;>
    rw [e] at h <;> cases h
  · rw [if_pos room]
    exact ⟨storesAtWptr_of_eq hw rfl rfl rfl, count_succ_toNat room, rfl, hev⟩
  · rw [if_neg (Nat.not_lt.mpr full), if_pos hhalt]
    exact ⟨storesAtWptr_of_eq hw rfl rfl rfl, rfl, rfl, rfl⟩
  · rw [if_neg (Nat.not_lt.mpr full), if_neg (by rw [hhalt]; decide)]
    exact ⟨sameStore_of_eq rfl rfl rfl rfl, rfl, rfl⟩

/-- What `Append` reads is as before, `SHREG` being the byte appended. -/
structure AppendsAlike (s u : State) : Prop extends SameStore s u where
  shreg : u.shreg = s.shreg
  bufferFull : u.bufferFull = s.bufferFull
  ovfHalt : u.ovfHalt = s.ovfHalt
  capacityTop : u.capacityTop = s.capacityTop

theorem Sampled.appendsAlike {s u : State} (h : Sampled s u) : AppendsAlike s u :=
  ⟨h.toSameStore, h.shreg, h.bufferFull, h.ovfHalt, h.capacityTop⟩

theorem storesAtWptr_congr {s u v t : State} (hsu : AppendsAlike s u) (h : StoresAtWptr u v) (hvt : SameStore v t) :
    StoresAtWptr s t where
  entry := by rw [hvt.entry, ← hsu.wptr, h.entry, hsu.shreg]
  byte := by rw [hvt.byte, ← hsu.wptr, h.byte, hsu.shreg]
  otherEntry := fun i hi => by rw [hvt.entry, h.otherEntry i (hsu.wptr ▸ hi), hsu.entry]
  otherByte := fun i hi => by rw [hvt.byte, h.otherByte i (hsu.wptr ▸ hi), hsu.byte]
  wptr := by rw [hvt.wptr, h.wptr, hsu.wptr, capacity_congr hsu.capacityTop]

theorem appends_congr {s u v t : State} (hsu : AppendsAlike s u) (h : Appends u v) (hvt : SameStore v t)
    (bufferFull : t.bufferFull = v.bufferFull) (event : t.out.bufferFull = v.out.bufferFull) : Appends s t := by
  unfold Appends at h ⊢
  rw [hsu.count, capacity_congr hsu.capacityTop, hsu.ovfHalt, hsu.bufferFull] at h
  rw [bufferFull, event, hvt.count]
  by_cases room : s.count.toNat < s.capacity
  · rw [if_pos room] at h ⊢
    obtain ⟨hstore, hcount, hflag, hevent⟩ := h
    exact ⟨storesAtWptr_congr hsu hstore hvt, hcount, hflag, hevent⟩
  rw [if_neg room] at h ⊢
  by_cases halt : s.ovfHalt = false
  · rw [if_pos halt] at h ⊢
    obtain ⟨hstore, hcount, hflag, hevent⟩ := h
    exact ⟨storesAtWptr_congr hsu hstore hvt, hcount, hflag, hevent⟩
  · rw [if_neg halt] at h ⊢
    obtain ⟨hstore, hflag, hevent⟩ := h
    exact ⟨sameStore_trans (sameStore_trans hsu.toSameStore hstore) hvt, hflag, hevent⟩

/-- What a commit makes of `u` beside the three outcomes of `Append`. -/
structure Commits (u t : State) : Prop extends SameConfig u t, SameEnvironment u t where
  seq : t.seq = .idle
  timer : t.timer = u.timer
  bitIdx : t.bitIdx = u.bitIdx
  stopCnt : t.stopCnt = u.stopCnt
  shreg : t.shreg = u.shreg
  rxPrev : t.rxPrev = u.rxPrev
  frameValid : t.frameValid = u.frameValid
  framingError : t.framingError = u.framingError
  frameDone : t.out.frameDone = true
  framingErrorEvent : t.out.framingError = u.out.framingError
  busRdata : t.out.busRdata = u.out.busRdata

theorem commits_of_commit {u t : State} (h : u.commit = .next t) : Commits u t := by
  obtain ⟨v, hv, rfl⟩ := commit_next h
  obtain ⟨hframe, hpin, hvalid, herror, hconfig, henv, hdata, hevent, -⟩ := append_frame hv
  exact {
    fullDelay := hconfig.fullDelay, halfDelay := hconfig.halfDelay, en := hconfig.en, stop2 := hconfig.stop2
    ovfHalt := hconfig.ovfHalt, capacityTop := hconfig.capacityTop
    script := henv.script, tickNo := henv.tickNo, bufEpoch := henv.bufEpoch
    seq := rfl, timer := hframe.timer, bitIdx := hframe.bitIdx, stopCnt := hframe.stopCnt, shreg := hframe.shreg
    rxPrev := hpin, frameValid := hvalid, framingError := herror
    frameDone := rfl, framingErrorEvent := hevent, busRdata := hdata }

/-- A commit appends what the state before the samples of its tick holds (`42_stop_and_commit.md` R173, R174). -/
theorem Sampled.appends {s u t : State} (h : Sampled s u) (hc : u.commit = .next t) : Appends s t := by
  obtain ⟨v, hv, rfl⟩ := commit_next hc
  exact appends_congr h.appendsAlike (appends_of_append h.noFullEvent hv) (sameStore_of_eq rfl rfl rfl rfl) rfl rfl

/-! ### The fault of a commit -/

theorem append_fault_iff (s : State) (b : Byte) : s.append b = .fault .bufferIndexOutOfRange ↔
    s.capacity ≤ s.wptr.toNat ∧ (s.count.toNat < s.capacity ∨ s.ovfHalt = false) := by
  rcases append_cases s b with ⟨-, inside, e⟩ | ⟨-, -, inside, e⟩ | ⟨full, halt, e⟩ | ⟨outside, stores, e⟩ <;> rw [e]
  · exact ⟨fun h => (by cases h), fun ⟨outside, _⟩ => absurd inside (Nat.not_lt.mpr outside)⟩
  · exact ⟨fun h => (by cases h), fun ⟨outside, _⟩ => absurd inside (Nat.not_lt.mpr outside)⟩
  · refine ⟨fun h => (by cases h), fun ⟨_, stores⟩ => ?_⟩
    rcases stores with room | nohalt
    · exact absurd room (Nat.not_lt.mpr full)
    · rw [halt] at nohalt; cases nohalt
  · exact ⟨fun _ => ⟨outside, stores⟩, fun _ => rfl⟩

theorem commit_fault_iff_append (s : State) :
    s.commit = .fault .bufferIndexOutOfRange ↔ s.append s.shreg = .fault .bufferIndexOutOfRange := by
  rcases commit_cases s with ⟨t, ha, hc⟩ | ⟨ha, hc⟩ <;> rw [ha, hc]
  exact ⟨fun h => (by cases h), fun h => (by cases h)⟩

theorem Sampled.commit_fault_iff {s u : State} (h : Sampled s u) : u.commit = .fault .bufferIndexOutOfRange ↔
    s.capacity ≤ s.wptr.toNat ∧ (s.count.toNat < s.capacity ∨ s.ovfHalt = false) := by
  rw [commit_fault_iff_append, append_fault_iff, capacity_congr h.capacityTop, h.wptr, h.count, h.ovfHalt]

/-- A commit completes while `WPTR` is an index of the buffer (`42_stop_and_commit.md` R177). -/
theorem Sampled.exists_commit {s u : State} (h : Sampled s u) (hw : s.wptr.toNat < s.capacity) :
    ∃ t, u.commit = .next t := by
  rcases commit_cases u with ⟨v, -, hc⟩ | ⟨-, hfault⟩
  · exact ⟨_, hc⟩
  · obtain ⟨outside, -⟩ := h.commit_fault_iff.mp hfault
    exact absurd hw (Nat.not_lt.mpr outside)

/-! ### The statements -/

/-- Settles O30: every value is a constant of `execRst` (`10_state.md` R46). -/
theorem rstGivesEveryElementItsResetValue : Obligations.RstGivesEveryElementItsResetValue := fun _ =>
  ⟨_, rfl, rfl, rfl, rfl, rfl, rfl, rfl, rfl, rfl, rfl, rfl, rfl, rfl, rfl, rfl, rfl, rfl, rfl, fun _ => rfl,
    ⟨rfl, rfl, rfl⟩, rfl, rfl, rfl⟩

/-- Settles O31: the 17-bit sum of the delays is exact (`40_idle_and_start.md` R132). -/
theorem idleStartBeginsAFrame : Obligations.IdleStartBeginsAFrame := fun s =>
  ⟨_, rfl, rfl, rfl, rfl, rfl, startLoad_toNat s.halfDelay s.fullDelay, rfl, rfl, rfl, rfl, ⟨rfl, rfl, rfl⟩, rfl,
    sameStore_of_eq rfl rfl rfl rfl, ⟨rfl, rfl, rfl, rfl, rfl, rfl⟩, ⟨rfl, rfl, rfl⟩⟩

/-- Settles O32: the pin sampler is all of the operation (`40_idle_and_start.md` R131). -/
theorem idlePollOnlySamplesThePin : Obligations.IdlePollOnlySamplesThePin := fun s rx =>
  have h := samplePin_sampled s rx
  ⟨_, rfl, rfl, h.toSameFrame, ⟨rfl, rfl, rfl⟩, h.toSameStore, h.toSameConfig, h.toSameEnvironment,
    ⟨rfl, rfl, rfl⟩, rfl⟩

/-- Settles O33: both operations are the same decrement (`41_sampling.md` R150; `42_stop_and_commit.md` R170). -/
theorem waitOperationsCountDown : Obligations.WaitOperationsCountDown := by
  intro s rx hwait op hop
  have hexec : exec op s = .next { s.samplePin rx with timer := s.timer - 1 } := by
    rcases List.mem_pair.mp hop with rfl | rfl <;> rfl
  have htimer := timer_sub_one_toNat hwait
  refine ⟨_, hexec, ?_, ?_, rfl, rfl, rfl, rfl, rfl, ⟨rfl, rfl, rfl⟩, sameStore_of_eq rfl rfl rfl rfl,
    ⟨rfl, rfl, rfl, rfl, rfl, rfl⟩, ⟨rfl, rfl, rfl⟩, ⟨rfl, rfl, rfl⟩, rfl⟩
  · show (s.timer - 1).toNat + 1 = s.timer.toNat; omega
  · show 1 ≤ (s.timer - 1).toNat; omega

theorem or_dataBit_getLsbD (x : Byte) (rx : Bool) (n : BitVec 3) (k : Nat) :
    (x ||| dataBit rx n).getLsbD k = (x.getLsbD k || (rx && decide (k = n.toNat))) := by
  rw [BitVec.getLsbD_or, dataBit_getLsbD]

/-- Settles O34, by the bits of `dataBit` (`41_sampling.md` R151, R153). -/
theorem sampBitOrsInOneBit : Obligations.SampBitOrsInOneBit := fun s _ =>
  ⟨_, rfl, fun _ => or_dataBit_getLsbD .., BitVec.toNat_add s.bitIdx 1,
    delayLoad_toNat s.fullDelay, rfl, rfl, rfl, ⟨rfl, rfl, rfl⟩, sameStore_of_eq rfl rfl rfl rfl,
    ⟨rfl, rfl, rfl, rfl, rfl, rfl⟩, ⟨rfl, rfl, rfl⟩, ⟨rfl, rfl, rfl⟩, rfl⟩

/-- Settles O35, by the bits of `dataBit` (`41_sampling.md` R152). -/
theorem sampLastGoesToStopWait : Obligations.SampLastGoesToStopWait := fun s _ =>
  ⟨_, rfl, fun _ => or_dataBit_getLsbD .., rfl, rfl, rfl,
    delayLoad_toNat s.fullDelay, rfl, ⟨rfl, rfl, rfl⟩, sameStore_of_eq rfl rfl rfl rfl,
    ⟨rfl, rfl, rfl, rfl, rfl, rfl⟩, ⟨rfl, rfl, rfl⟩, ⟨rfl, rfl, rfl⟩, rfl⟩

/-- `FRAMING_ERROR` after a stop-bit sample (`42_stop_and_commit.md` R172). -/
theorem stopSample_framingError_iff (s : State) (rx : Bool) :
    ((s.samplePin rx).stopSample rx).framingError = true ↔ s.framingError = true ∨ rx = false := by
  rw [stopSample_framingError, samplePin_framingError, Bool.or_eq_true, Bool.not_eq_true']

/-- Settles O36: the stop-bit sample, with `STOPCNT` and the load besides (`42_stop_and_commit.md` R171, R172). -/
theorem stopNextTakesTheStopSample : Obligations.StopNextTakesTheStopSample := by
  intro s rx
  have h := stopSample_sampled s rx
  exact ⟨_, rfl, stopSample_frameValid .., stopSample_framingError_iff s rx, h.bufferFull, rfl,
    delayLoad_toNat s.fullDelay, h.seq, h.bitIdx, h.shreg,
    stopSample_rxPrev .., ⟨⟨h.entry, h.byte⟩, h.count, h.wptr⟩,
    ⟨h.fullDelay, h.halfDelay, h.en, h.stop2, h.ovfHalt, h.capacityTop⟩, ⟨h.script, h.tickNo, h.bufEpoch⟩,
    ⟨h.noFullEvent, by simp, h.notDone⟩, h.busRdata⟩

/-- Settles O37: a stop-bit sample and then a commit (`42_stop_and_commit.md` R173, R177, R178). -/
theorem stopDone1SamplesAndCommits : Obligations.StopDone1SamplesAndCommits := by
  intro s rx hw
  have h := stopSample_sampled s rx
  obtain ⟨t, ht⟩ := h.exists_commit hw
  have hc := commits_of_commit ht
  exact ⟨t, ht, h.appends ht, hc.seq, hc.frameValid.trans (stopSample_frameValid ..),
    by rw [hc.framingError, stopSample_framingError_iff], hc.rxPrev.trans (stopSample_rxPrev ..),
    hc.timer.trans h.timer, hc.bitIdx.trans h.bitIdx, hc.stopCnt.trans h.stopCnt, hc.shreg.trans h.shreg,
    sameConfig_trans h.toSameConfig hc.toSameConfig, sameEnvironment_trans h.toSameEnvironment hc.toSameEnvironment,
    hc.frameDone, by rw [hc.framingErrorEvent, stopSample_out]; simp, hc.busRdata.trans h.busRdata⟩

/-- Settles O38: a commit after the pin sampler alone (`42_stop_and_commit.md` R174, R177, R178). -/
theorem stopDone2Commits : Obligations.StopDone2Commits := by
  intro s rx hw
  have h := samplePin_sampled s rx
  obtain ⟨t, ht⟩ := h.exists_commit hw
  have hc := commits_of_commit ht
  exact ⟨t, ht, h.appends ht, hc.seq, hc.frameValid, hc.framingError, hc.rxPrev, hc.timer, hc.bitIdx, hc.stopCnt,
    hc.shreg, sameConfig_trans h.toSameConfig hc.toSameConfig,
    sameEnvironment_trans h.toSameEnvironment hc.toSameEnvironment, hc.frameDone, hc.framingErrorEvent, hc.busRdata⟩

/-- Settles O39: a commit faults where its `Append` does, and the samples of the tick do not reach what `Append` reads
(log entry 9). -/
theorem commitFaultsExactlyOutsideTheBuffer : Obligations.CommitFaultsExactlyOutsideTheBuffer := by
  intro s rx op hop
  rcases List.mem_pair.mp hop with rfl | rfl
  · exact (stopSample_sampled s rx).commit_fault_iff
  · exact (samplePin_sampled s rx).commit_fault_iff

end Sys2Proof.Proofs

/-! PROOFS. What each bus command does and what it leaves unchanged: the statements of `43_host_and_reset_ops.md`
section 2, and of `20_memory.md` about the buffer and the bus. -/

namespace Sys2Proof.Proofs

open Sys2Proof Sys2Proof.Machine Sys2Proof.Laws

/-! ### The bus map -/

theorem windowAddr_windowIndex {a : Half} (h : 0x8000#16 ≤ a) : windowAddr (windowIndex a) = a := by
  rw [BitVec.le_def] at h
  replace h : 0x8000 ≤ a.toNat := h
  refine BitVec.eq_of_toNat_eq ?_
  rw [windowAddr_toNat, windowIndex_toNat h]
  omega

/-- The window shows the buffer below `CAPACITY` and 0 beyond it (`20_memory.md` R63). -/
theorem memRead_windowAddr (s : State) (index : BitVec 15) :
    s.memRead (windowAddr index) =
      if index.toNat < s.capacity then (s.bufByte index.toNat).setWidth 16 else 0 := by
  split
  · have hn : ∀ k : Half, k.toNat < 10 → windowAddr index ≠ k := ne_of_le (by rw [windowAddr_toNat]; omega)
    have hwin : 0x8000#16 ≤ windowAddr index := by
      rw [BitVec.le_def, windowAddr_toNat]; exact Nat.le_add_right ..
    have hin : s.inBuffer index.toNat = true := (inBuffer_iff ..).mpr ‹_›
    simp [State.memRead, hn 0#16 (by decide), hn 1#16 (by decide), hn 2#16 (by decide), hn 3#16 (by decide),
      hn 4#16 (by decide), hn 5#16 (by decide), hn 6#16 (by decide), hn 7#16 (by decide), hn 8#16 (by decide),
      hn 9#16 (by decide), hwin, hin]
  · exact memRead_beyond (by omega)

/-- What a command of the host does, by the fields of its word: a read of the bus map, a write to it, or nothing. The
seventeen rows of `30_encoding.md` R96 are no more than that (`20_memory.md` R65, R66). -/
theorem exec_commandOf (v e : Bool) (a d : Half) (s : State) :
    exec (commandOf v e a d) s = if v && !e then s.busRead a else if v then s.busWrite a d else s.busIdle := by
  have row {c : Prop} [Decidable c] {i j : Instr} {r : Result} (hi : c → exec i s = r) (hj : ¬ c → exec j s = r) :
      exec (if c then i else j) s = r := by
    split
    · exact hi ‹_›
    · exact hj ‹_›
  cases v with
  | false => rfl
  | true =>
    cases e with
    | true =>
      rw [commandOf, if_neg (by decide), if_pos rfl]
      refine row (fun h => h ▸ rfl) fun h0 => row (fun h => h ▸ rfl) fun h1 => row (fun h => h ▸ rfl) fun h2 => ?_
      show s.busIdle = s.busWrite a d
      rw [State.busWrite, State.memWrite, if_neg h0, if_neg h1, if_neg h2, State.busIdle]
    | false =>
      rw [commandOf, if_neg (by decide), if_neg (by decide)]
      refine row (fun h => h ▸ rfl) fun h0 => row (fun h => h ▸ rfl) fun h1 => row (fun h => h ▸ rfl) fun h2 =>
        row (fun h => h ▸ rfl) fun h3 => row (fun h => h ▸ rfl) fun h4 => row (fun h => h ▸ rfl) fun h5 =>
        row (fun h => h ▸ rfl) fun h6 => row (fun h => h ▸ rfl) fun h7 => row (fun h => h ▸ rfl) fun h8 =>
        row (fun h => h ▸ rfl) fun h9 => row (fun hwin => ?window) fun hwin => ?reserved
      case window =>
        show s.busRead (windowAddr (windowIndex a)) = s.busRead a
        rw [windowAddr_windowIndex hwin]
      case reserved =>
        have hzero : s.memRead a = 0 := by simp [State.memRead, h0, h1, h2, h3, h4, h5, h6, h7, h8, h9, hwin]
        show _ = s.busRead a
        rw [State.busRead, hzero]
        rfl

/-! ### The words of the registers -/

/-- Bit fields put together are a sum (`30_encoding.md` R99). -/
theorem append_toNat {m n : Nat} (x : BitVec m) (y : BitVec n) : (x ++ y).toNat = x.toNat * 2 ^ n + y.toNat := by
  rw [BitVec.toNat_append, ← Nat.shiftLeft_add_eq_or_of_lt y.isLt, Nat.shiftLeft_eq]

theorem ctrlWord_toNat (s : State) : s.ctrlWord.toNat = s.en.toNat + 2 * s.stop2.toNat + 4 * s.ovfHalt.toNat := by
  simp only [State.ctrlWord, append_toNat, BitVec.toNat_ofBool, BitVec.toNat_ofNat]
  omega

theorem statusWord_toNat (s : State) : s.statusWord.toNat =
    s.seq.code.toNat + 4 * s.frameValid.toNat + 8 * s.framingError.toNat + 16 * s.bufferFull.toNat
      + 32 * s.rxPrev.toNat + 64 * s.stopCnt.toNat + 128 * s.bitIdx.toNat := by
  simp only [State.statusWord, append_toNat, BitVec.toNat_ofBool, BitVec.toNat_ofNat]
  omega

theorem timerLo_toNat (s : State) : s.timerLo.toNat = s.timer.toNat % 65536 := by
  rw [State.timerLo, BitVec.extractLsb'_toNat, Nat.shiftRight_zero]

theorem timerHi_toNat (s : State) : s.timerHi.toNat = s.timer.toNat / 65536 := by
  have := s.timer.isLt
  rw [State.timerHi, BitVec.toNat_setWidth, BitVec.extractLsb'_toNat, Nat.shiftRight_eq_div_pow]
  omega

theorem capacityWord_toNat (s : State) : s.capacityWord.toNat = s.capacity := by
  have := capacity_le s
  rw [State.capacityWord, BitVec.toNat_ofNat]
  omega

theorem shregWord_toNat (s : State) : (s.shreg.setWidth 16).toNat = s.shreg.toNat := by
  have := s.shreg.isLt
  rw [BitVec.toNat_setWidth]
  omega

/-- `CTRL` holds the three low bits of what was written to it (`10_state.md` R39). -/
theorem ctrlWord_memWrite (s : State) (d : Half) : (s.memWrite 2#16 d).ctrlWord = d &&& 7#16 := by
  have hmask : (d &&& 7#16).toNat = d.toNat % 8 := Nat.and_two_pow_sub_one_eq_mod d.toNat 3
  refine BitVec.eq_of_toNat_eq ?_
  rw [ctrlWord_toNat, memWrite_en, memWrite_stop2, memWrite_ovfHalt, if_pos rfl, if_pos rfl, if_pos rfl, hmask]
  simp only [BitVec.getLsbD, Nat.toNat_testBit]
  omega

/-! ### The statements -/

/-- Settles O40, by `State.memWrite` and its frame (`43_host_and_reset_ops.md` R202 to R204). -/
theorem writeCommandsWriteTheirRegisterOnly : Obligations.WriteCommandsWriteTheirRegisterOnly := fun s d =>
  ⟨rfl, rfl, _, rfl, ctrlWord_memWrite s d, rfl, rfl, rfl,
    ⟨⟨rfl, rfl, rfl, rfl, rfl⟩, ⟨rfl, rfl, rfl⟩, sameStore_of_eq rfl rfl rfl rfl, rfl⟩, ⟨rfl, rfl, rfl⟩, rfl⟩

/-- Settles O41 (`43_host_and_reset_ops.md` R201, R205, R217). -/
theorem otherCommandsChangeNothing : Obligations.OtherCommandsChangeNothing := by
  intro s a d cmd hcmd
  simp only [List.mem_cons, List.not_mem_nil, or_false] at hcmd
  rcases hcmd with rfl | rfl | rfl <;> rfl

/-- Settles O42: each command reads its address of the bus map, and the words there have these numbers
(`10_state.md` R39, R43, R44). -/
theorem readCommandsReturnTheirRegister : Obligations.ReadCommandsReturnTheirRegister := by
  intro s p hp
  simp only [List.mem_cons, List.not_mem_nil, or_false] at hp
  rcases hp with rfl | rfl | rfl | rfl | rfl | rfl | rfl | rfl | rfl | rfl
  · exact ⟨s.fullDelay, rfl, rfl⟩
  · exact ⟨s.halfDelay, rfl, rfl⟩
  · exact ⟨s.ctrlWord, ctrlWord_toNat s, rfl⟩
  · exact ⟨s.statusWord, statusWord_toNat s, rfl⟩
  · exact ⟨s.count, rfl, rfl⟩
  · exact ⟨s.wptr, rfl, rfl⟩
  · exact ⟨s.shreg.setWidth 16, shregWord_toNat s, rfl⟩
  · exact ⟨s.timerLo, timerLo_toNat s, rfl⟩
  · exact ⟨s.timerHi, timerHi_toNat s, rfl⟩
  · exact ⟨s.capacityWord, capacityWord_toNat s, rfl⟩

/-- Settles O43, by `memRead_windowAddr` (`43_host_and_reset_ops.md` R216). -/
theorem rdBufReadsTheWindow : Obligations.RdBufReadsTheWindow := by
  refine fun s i => ⟨s.memRead (windowAddr i), rfl, fun hlt => ?_, memRead_beyond⟩
  have hb := (s.bufByte i.toNat).isLt
  have hv : (s.memRead (windowAddr i)).toNat = (s.bufByte i.toNat).toNat := by
    rw [memRead_windowAddr, if_pos hlt, BitVec.toNat_setWidth]
    omega
  rw [hv]
  exact ⟨hb, fun b hentry => by rw [State.bufByte, hentry]; rfl⟩

/-- Settles O44 (`20_memory.md` R74). -/
theorem writtenRegistersReadBack : Obligations.WrittenRegistersReadBack := by
  refine fun s t u d => ⟨fun hw hr => ?_, fun hw hr => ?_, fun hw hr => ?_⟩ <;> cases hw <;> cases hr
  · exact ctrlWord_memWrite s d
  · rfl
  · rfl

/-- Settles O47 (`20_memory.md` R60, R61). -/
theorem storedEntryReadsBackAndOthersStay : Obligations.StoredEntryReadsBackAndOthersStay := by
  intro m i j b
  split
  case isTrue h => rw [h, entry_store_same]
  case isFalse h => exact entry_store_other m b h

end Sys2Proof.Proofs

/-! PROOFS. The statements about which operation a tick executes (`30_encoding.md` section 2; `40_idle_and_start.md`
sections 2, 3). -/

namespace Sys2Proof.Proofs

open Sys2Proof Sys2Proof.Machine Sys2Proof.Laws

theorem startOk_iff (s : State) :
    s.startOk = true ↔ s.en = true ∧ ¬ (s.bufferFull = true ∧ s.ovfHalt = true) := by
  rw [State.startOk, Bool.and_eq_true, Bool.not_eq_true', ← Bool.not_eq_true, Bool.and_eq_true]

/-- Row 2 of the operation table, as conditions on the state and the line (`30_encoding.md` R92). -/
theorem opOf_eq_idleStart_iff (s : State) {inp : Inputs} (hr : inp.rst = false) :
    opOf s inp = .idleStart ↔ s.seq = .idle ∧ s.startOk = true ∧ s.rxPrev = true ∧ inp.rx = false := by
  have other {op : Instr} (hq : s.seq ≠ .idle) (hne : op ≠ .idleStart) :
      op = .idleStart ↔ s.seq = .idle ∧ s.startOk = true ∧ s.rxPrev = true ∧ inp.rx = false :=
    ⟨fun h => absurd h hne, fun ⟨h, _⟩ => absurd h hq⟩
  rw [opOf, hr]
  refine operation_cases s inp.rx
    (fun op => op = .idleStart ↔ s.seq = .idle ∧ s.startOk = true ∧ s.rxPrev = true ∧ inp.rx = false)
    (start := fun hq hok hprev hlow => ⟨fun _ => ⟨hq, hok, hprev, hlow⟩, fun _ => rfl⟩)
    (poll := fun _ hnot => ⟨fun h => (by cases h), fun ⟨_, h⟩ => absurd h hnot⟩)
    (sampWait := fun hq _ => other ?_ ?_)
    (sampBit := fun hq _ _ => other ?_ ?_)
    (sampLast := fun hq _ _ => other ?_ ?_)
    (stopWait := fun hq _ => other ?_ ?_)
    (stopNext := fun hq _ _ _ => other ?_ ?_)
    (done1 := fun hq _ _ _ => other ?_ ?_)
    (done2 := fun hq _ _ => other ?_ ?_)
  all_goals simp [hq]

theorem opOf_of_startsFrame {s : State} (h : StartsFrame s) (hr : s.input.rst = false) :
    opOf s.consumed s.input = .idleStart :=
  (opOf_eq_idleStart_iff s.consumed hr).mpr ⟨h.idle, h.startOk, h.rxPrev, h.low⟩

/-- In IDLE the receiver polls the line at every tick that starts no frame (`40_idle_and_start.md` R131). -/
theorem opOf_eq_idlePoll {s : State} {inp : Inputs} (hr : inp.rst = false) (hq : s.seq = .idle)
    (hnot : ¬ (s.startOk = true ∧ s.rxPrev = true ∧ inp.rx = false)) : opOf s inp = .idlePoll inp.rx := by
  have hcond : (s.startOk && s.fall inp.rx) = false := by
    rw [← Bool.not_eq_true, State.fall, Bool.and_eq_true, Bool.and_eq_true, Bool.not_eq_true']
    exact hnot
  simp [opOf, operationOf, hr, hq, hcond]

/-- The operation of a tick in SAMPLING (`30_encoding.md` R92, rows 4 to 6). -/
theorem opOf_sampling {s : State} {inp : Inputs} (hr : inp.rst = false) (hq : s.seq = .sampling) :
    opOf s inp = if 2 ≤ s.timer.toNat then .sampWait inp.rx
      else if s.bitIdx.toNat = 7 then .sampLast inp.rx else .sampBit inp.rx := by
  have hwait : s.texp = false ↔ 2 ≤ s.timer.toNat := by rw [← Bool.not_eq_true, texp_iff]; omega
  have hlast : s.last = true ↔ s.bitIdx.toNat = 7 := by
    rw [last_iff, ← BitVec.toNat_inj]; rfl
  simp only [opOf, operationOf, hr, hq, ← hwait, ← hlast]
  cases s.texp <;> cases s.last <;> rfl

/-- The operation of a tick in STOP_WAIT (`30_encoding.md` R92, rows 7 to 10). -/
theorem opOf_stopWait {s : State} {inp : Inputs} (hr : inp.rst = false) (hq : s.seq = .stopWait) :
    opOf s inp = if 2 ≤ s.timer.toNat then .stopWait inp.rx
      else if s.stopCnt.toNat = 1 then .stopDone2 inp.rx
      else if s.stop2 = true then .stopNext inp.rx else .stopDone1 inp.rx := by
  have hwait : s.texp = false ↔ 2 ≤ s.timer.toNat := by rw [← Bool.not_eq_true, texp_iff]; omega
  have hcnt : s.stopCnt = 1 ↔ s.stopCnt.toNat = 1 := by rw [← BitVec.toNat_inj]; rfl
  simp only [opOf, operationOf, hr, hq, ← hwait, ← hcnt]
  cases s.texp <;> rfl

/-- Settles O7: rows 2 and 3 of the operation table under the condition of a start (`30_encoding.md` R92). -/
theorem startSelectedExactlyOnAllowedFall : Obligations.StartSelectedExactlyOnAllowedFall := by
  refine fun s inp => ⟨?_, fun hr hq hno => ?_⟩
  · rw [decodeT_selector, Except.ok.injEq]
    cases hr : inp.rst with
    | true => simp [operationOf]
    | false =>
      have hiff := opOf_eq_idleStart_iff s hr
      rw [opOf, hr, startOk_iff] at hiff
      rw [hiff]
      tauto
  · rw [decodeT_selector, Except.ok.injEq]
    refine opOf_eq_idlePoll hr hq fun ⟨hok, hprev, hlow⟩ => ?_
    obtain ⟨hen, hhalt⟩ := (startOk_iff s).mp hok
    simp [hen, hhalt, hprev, hlow] at hno

/-- Settles O8: rows 4 to 10 of the operation table (`30_encoding.md` R92). -/
theorem selectionOutsideIdle : Obligations.SelectionOutsideIdle := by
  intro s inp hr
  rw [decodeT_selector]
  exact ⟨fun hq => congrArg _ (opOf_sampling hr hq), fun hq => congrArg _ (opOf_stopWait hr hq)⟩

end Sys2Proof.Proofs

/-! PROOFS. What one step does: the statements of `10_state.md` sections 5 and 10, `20_memory.md` section 7,
`43_host_and_reset_ops.md` sections 1 and 3, and `60_exceptions.md` about a tick. -/

namespace Sys2Proof.Proofs

open Sys2Proof Sys2Proof.Machine Sys2Proof.Laws

/-! ### Operations and commands write disjoint state -/

/-- No operation but RST writes the host's registers or the read data, or takes inputs (`10_state.md` R52). -/
theorem operation_hostState {i : Instr} (hop : i.isOperation = true) (hne : i ≠ .rst) {s t : State}
    (h : exec i s = .next t) : SameConfig s t ∧ t.out.busRdata = s.out.busRdata ∧ SameEnvironment s t := by
  have commit {u : State} (hu : Sampled s u) (h : u.commit = .next t) :
      SameConfig s t ∧ t.out.busRdata = s.out.busRdata ∧ SameEnvironment s t :=
    have hc := commits_of_commit h
    ⟨sameConfig_trans hu.toSameConfig hc.toSameConfig, hc.busRdata.trans hu.busRdata,
      sameEnvironment_trans hu.toSameEnvironment hc.toSameEnvironment⟩
  cases i with
  | rst => exact absurd rfl hne
  | stopDone1 rx => exact commit (stopSample_sampled s rx) h
  | stopDone2 rx => exact commit (samplePin_sampled s rx) h
  | stopNext rx =>
    cases h
    have hu := stopSample_sampled s rx
    exact ⟨⟨hu.fullDelay, hu.halfDelay, hu.en, hu.stop2, hu.ovfHalt, hu.capacityTop⟩, hu.busRdata,
      ⟨hu.script, hu.tickNo, hu.bufEpoch⟩⟩
  | idleStart | idlePoll | sampWait | sampBit | sampLast | stopWait =>
    cases h
    exact ⟨⟨rfl, rfl, rfl, rfl, rfl, rfl⟩, rfl, ⟨rfl, rfl, rfl⟩⟩
  | _ => cases hop

theorem sameReceiver_of_hostOnly {s t : State} (h : HostOnly s t) : SameReceiver s t ∧
    t.out.events = s.out.events ∧ t.capacityTop = s.capacityTop ∧ SameEnvironment s t := by
  rw [show t = _ from h]
  exact ⟨⟨⟨rfl, rfl, rfl, rfl, rfl⟩, ⟨rfl, rfl, rfl⟩, sameStore_of_eq rfl rfl rfl rfl, rfl⟩, rfl, rfl, ⟨rfl, rfl, rfl⟩⟩

/-! ### The command of a tick -/

/-- The read data of a tick's command (`20_memory.md` R65, R75). -/
theorem command_busRdata {inp : Inputs} {s b : State} (h : exec (cmdOf inp) s = .next b) :
    b.out.busRdata = if inp.busValid && !inp.busWe then s.memRead inp.busAddr else 0 := by
  rw [cmdOf, exec_commandOf] at h
  cases hv : inp.busValid <;> cases he : inp.busWe <;> rw [hv, he] at h <;> cases h <;> rfl

/-- The host's registers after a tick's command (`20_memory.md` R66). -/
theorem command_hostWritten {inp : Inputs} {s b : State} (h : exec (cmdOf inp) s = .next b) :
    HostWritten s b inp := by
  rw [cmdOf, exec_commandOf] at h
  by_cases hw : inp.busValid = true ∧ inp.busWe = true
  · obtain ⟨hv, he⟩ := hw
    rw [hv, he] at h
    cases h
    constructor <;> simp [hv, he, memWrite_fullDelay, memWrite_halfDelay, memWrite_en, memWrite_stop2, memWrite_ovfHalt]
  · have hno : (inp.busValid && inp.busWe) = false := by rw [← Bool.not_eq_true, Bool.and_eq_true]; exact hw
    have hkeep : b.fullDelay = s.fullDelay ∧ b.halfDelay = s.halfDelay ∧ b.en = s.en ∧ b.stop2 = s.stop2 ∧
        b.ovfHalt = s.ovfHalt ∧ b.capacityTop = s.capacityTop := by
      cases hv : inp.busValid <;> cases he : inp.busWe <;> rw [hv, he] at h hno <;> cases hno <;> cases h <;>
        exact ⟨rfl, rfl, rfl, rfl, rfl, rfl⟩
    obtain ⟨hF, hH, hen, hstop2, hhalt, hcap⟩ := hkeep
    constructor <;> simp [hno, hF, hH, hen, hstop2, hhalt, hcap]

/-! ### The join -/

/-- The state that joins the state `a` of an operation and the state `b` of a command (log entry 8). -/
def joined (a b : State) : State :=
  { a with
    fullDelay := b.fullDelay, halfDelay := b.halfDelay, en := b.en, stop2 := b.stop2, ovfHalt := b.ovfHalt
    out := { a.out with busRdata := b.out.busRdata } }

theorem joined_sameReceiver (a b : State) : SameReceiver a (joined a b) :=
  ⟨⟨rfl, rfl, rfl, rfl, rfl⟩, ⟨rfl, rfl, rfl⟩, sameStore_of_eq rfl rfl rfl rfl, rfl⟩

theorem tick_of_next {inp : Inputs} {s a b : State} (hr : inp.rst = false) (ha : exec (opOf s inp) s = .next a)
    (hb : exec (cmdOf inp) s = .next b) : tick inp s = .next (joined a b) := by
  rw [tick_eq, if_neg (by rw [hr]; decide), ha, hb]
  rfl

/-- A tick that is not RST joins its operation and its command. -/
theorem tick_next {inp : Inputs} {s t : State} (hr : inp.rst = false) (h : tick inp s = .next t) :
    ∃ a b, exec (opOf s inp) s = .next a ∧ exec (cmdOf inp) s = .next b ∧ t = joined a b := by
  obtain ⟨b, hb, -⟩ := command_next (cmdOf inp) (commandOf_isOperation ..) s
  cases ha : exec (opOf s inp) s with
  | next a =>
    rw [tick_of_next hr ha hb] at h; cases h
    exact ⟨a, b, rfl, hb, rfl⟩
  | fault e => rw [tick_eq, if_neg (by rw [hr]; decide), ha] at h; cases h
  | refused e => rw [tick_eq, if_neg (by rw [hr]; decide), ha] at h; cases h

/-- A tick that is not RST completes if its operation does. -/
theorem exists_tick {inp : Inputs} {s a : State} (hr : inp.rst = false) (ha : exec (opOf s inp) s = .next a) :
    ∃ b, exec (cmdOf inp) s = .next b ∧ tick inp s = .next (joined a b) := by
  obtain ⟨b, hb, -⟩ := command_next (cmdOf inp) (commandOf_isOperation ..) s
  exact ⟨b, hb, tick_of_next hr ha hb⟩

theorem opOf_isOperation (s : State) (inp : Inputs) : (opOf s inp).isOperation = true := operationOf_isOperation ..

theorem opOf_ne_rst (s : State) {inp : Inputs} (hr : inp.rst = false) : opOf s inp ≠ .rst := by
  rw [opOf, hr]
  apply operationOf_ne_rst

/-! ### The host's registers and the read data after a step -/

theorem step_hostWritten {s t : State} (hr : s.input.rst = false) (h : step s = .next t) : HostWritten s t s.input := by
  obtain ⟨a, b, ha, hb, rfl⟩ := tick_next hr h
  obtain ⟨hconfig, -, -⟩ := operation_hostState (opOf_isOperation ..) (opOf_ne_rst _ hr) ha
  have hhost := command_hostWritten hb
  exact ⟨hhost.fullDelay, hhost.halfDelay, hhost.en, hhost.stop2, hhost.ovfHalt, hconfig.capacityTop⟩

/-! ### Sticky flags -/

/-- A flag is set in the tick of its event and by nothing else (`60_exceptions.md` R231). -/
def FlagsFollowEvents (s t : State) : Prop :=
  t.framingError = (s.framingError || t.out.framingError) ∧ t.bufferFull = (s.bufferFull || t.out.bufferFull)

theorem bufferFull_of_appends {s t : State} (h : Appends s t) : t.bufferFull = (s.bufferFull || t.out.bufferFull) := by
  unfold Appends at h
  split at h
  · obtain ⟨-, -, hflag, hevent⟩ := h; rw [hflag, hevent, Bool.or_false]
  · split at h
    · obtain ⟨-, -, hflag, hevent⟩ := h; rw [hflag, hevent, Bool.or_true]
    · obtain ⟨-, hflag, hevent⟩ := h; rw [hflag, hevent, Bool.or_true]

theorem operation_flagsFollowEvents {i : Instr} (hop : i.isOperation = true) (hne : i ≠ .rst) {s t : State}
    (h : exec i s = .next t) : FlagsFollowEvents s t := by
  cases i with
  | rst => exact absurd rfl hne
  | stopDone1 rx =>
    have hc := commits_of_commit h
    refine ⟨?_, bufferFull_of_appends ((stopSample_sampled s rx).appends h)⟩
    rw [hc.framingError, hc.framingErrorEvent]
    simp
  | stopDone2 rx =>
    have hc := commits_of_commit h
    refine ⟨?_, bufferFull_of_appends ((samplePin_sampled s rx).appends h)⟩
    rw [hc.framingError, hc.framingErrorEvent]
    simp
  | stopNext rx => cases h; exact ⟨by simp, by simp⟩
  | idleStart | idlePoll | sampWait | sampBit | sampLast | stopWait =>
    cases h
    exact ⟨(Bool.or_false _).symm, (Bool.or_false _).symm⟩
  | _ => cases hop

theorem step_flagsFollowEvents {s t : State} (hr : s.input.rst = false) (h : step s = .next t) :
    FlagsFollowEvents s t := by
  obtain ⟨a, b, ha, -, rfl⟩ := tick_next hr h
  have hflags : FlagsFollowEvents s.consumed a :=
    operation_flagsFollowEvents (opOf_isOperation ..) (opOf_ne_rst _ hr) ha
  exact hflags

/-! ### The sequencer's invariant -/

/-- The invariant reads the sequencing state, the assembly register and `FRAME_VALID` alone. -/
theorem sequencerInv_congr {s t : State} (h : SameFrame s t) (hvalid : t.frameValid = s.frameValid)
    (hs : SequencerInv s) : SequencerInv t where
  bitIdx_outside := by rw [h.seq, h.bitIdx]; exact hs.bitIdx_outside
  stopCnt_sampling := by rw [h.seq, h.stopCnt]; exact hs.stopCnt_sampling
  shreg_unsampled := by rw [h.seq, h.bitIdx, h.shreg]; exact hs.shreg_unsampled
  frameValid_before := by rw [h.seq, h.stopCnt, hvalid]; exact hs.frameValid_before
  timer_idle := by rw [h.seq, h.timer]; exact hs.timer_idle
  timer_le := by rw [h.timer]; exact hs.timer_le

theorem delayLoad_le (full : Half) : (delayLoad full).toNat ≤ 131070 := by
  have := full.isLt
  rw [delayLoad_toNat]
  omega

/-- A frame begins with no bit sampled (`40_idle_and_start.md` R132). -/
theorem idleStart_sequencerInv {s t : State} (h : exec .idleStart s = .next t) : SequencerInv t := by
  cases h
  exact {
    bitIdx_outside := fun _ => rfl
    stopCnt_sampling := fun _ => rfl
    shreg_unsampled := fun _ _ _ => BitVec.getLsbD_zero
    frameValid_before := fun _ => rfl
    timer_idle := fun hq => by cases hq
    timer_le := by
      have hF := s.fullDelay.isLt
      have hH := s.halfDelay.isLt
      refine Nat.le_trans (Nat.le_of_eq (startLoad_toNat s.halfDelay s.fullDelay)) ?_
      omega }

/-- A wait only counts, and not in IDLE (`41_sampling.md` R150). -/
theorem wait_sequencerInv {s : State} (rx : Bool) (hs : SequencerInv s) (hq : s.seq ≠ .idle)
    (hwait : 2 ≤ s.timer.toNat) : SequencerInv { s.samplePin rx with timer := s.timer - 1 } where
  bitIdx_outside := hs.bitIdx_outside
  stopCnt_sampling := hs.stopCnt_sampling
  shreg_unsampled := hs.shreg_unsampled
  frameValid_before := hs.frameValid_before
  timer_idle := fun hidle => absurd hidle hq
  timer_le := by
    refine Nat.le_trans (Nat.le_of_eq (timer_sub_one_toNat hwait)) ?_
    exact Nat.le_trans (Nat.sub_le ..) hs.timer_le

/-- SAMP.BIT fills the first of the bits not yet sampled (`41_sampling.md` R151, R153). -/
theorem sampBit_sequencerInv {s t : State} {rx : Bool} (hs : SequencerInv s) (hq : s.seq = .sampling)
    (hmore : s.bitIdx ≠ 7) (h : exec (.sampBit rx) s = .next t) : SequencerInv t := by
  have hidx : (s.bitIdx + 1).toNat = s.bitIdx.toNat + 1 := by
    have hlt := s.bitIdx.isLt
    have hne : s.bitIdx.toNat ≠ 7 := fun h7 => hmore (BitVec.eq_of_toNat_eq h7)
    rw [BitVec.toNat_add]
    exact Nat.mod_eq_of_lt (show s.bitIdx.toNat + 1 < 8 by omega)
  cases h
  exact {
    bitIdx_outside := fun hout => absurd hq hout
    stopCnt_sampling := hs.stopCnt_sampling
    shreg_unsampled := fun _ k hk => by
      have hk' : s.bitIdx.toNat + 1 ≤ k := hidx ▸ hk
      have hne : k ≠ s.bitIdx.toNat := by omega
      refine (or_dataBit_getLsbD ..).trans ?_
      rw [hs.shreg_unsampled hq k (by omega)]
      simp [hne]
    frameValid_before := hs.frameValid_before
    timer_idle := fun hidle => by rw [show s.seq = .idle from hidle] at hq; cases hq
    timer_le := delayLoad_le s.fullDelay }

/-- SAMP.LAST enters STOP_WAIT with no stop delay completed (`41_sampling.md` R152). -/
theorem sampLast_sequencerInv {s t : State} {rx : Bool} (hs : SequencerInv s) (hq : s.seq = .sampling)
    (h : exec (.sampLast rx) s = .next t) : SequencerInv t := by
  cases h
  exact {
    bitIdx_outside := fun _ => rfl
    stopCnt_sampling := fun hq' => by cases hq'
    shreg_unsampled := fun hq' => by cases hq'
    frameValid_before := fun _ => hs.frameValid_before (.inl hq)
    timer_idle := fun hq' => by cases hq'
    timer_le := delayLoad_le s.fullDelay }

/-- STOP.NEXT stays in STOP_WAIT, the stop bit sampled (`42_stop_and_commit.md` R171). -/
theorem stopNext_sequencerInv {s t : State} {rx : Bool} (hs : SequencerInv s) (hq : s.seq = .stopWait)
    (h : exec (.stopNext rx) s = .next t) : SequencerInv t := by
  obtain ⟨t', ht', -, -, -, hcnt, htimer, hseq, hidx, -⟩ := stopNextTakesTheStopSample s rx
  rw [ht'] at h; cases h
  have hq' : t.seq = .stopWait := hseq.trans hq
  exact {
    bitIdx_outside := fun _ => hidx.trans (hs.bitIdx_outside (by rw [hq]; decide))
    stopCnt_sampling := fun h => by rw [hq'] at h; cases h
    shreg_unsampled := fun h => by rw [hq'] at h; cases h
    frameValid_before := fun h => by
      rcases h with h | ⟨-, h⟩
      · rw [hq'] at h; cases h
      · rw [hcnt] at h; exact absurd h (by decide)
    timer_idle := fun h => by rw [hq'] at h; cases h
    timer_le := by have := s.fullDelay.isLt; omega }

/-- A commit returns to IDLE at the end of a wait, outside SAMPLING (`42_stop_and_commit.md` R173, R174). -/
theorem commit_sequencerInv {s u t : State} (hs : SequencerInv s) (hq : s.seq = .stopWait) (hend : s.timer.toNat ≤ 1)
    (hu : Sampled s u) (h : u.commit = .next t) : SequencerInv t := by
  have hc := commits_of_commit h
  have htimer : t.timer = s.timer := hc.timer.trans hu.timer
  exact {
    bitIdx_outside := fun _ => (hc.bitIdx.trans hu.bitIdx).trans (hs.bitIdx_outside (by rw [hq]; decide))
    stopCnt_sampling := fun h => by rw [hc.seq] at h; cases h
    shreg_unsampled := fun h => by rw [hc.seq] at h; cases h
    frameValid_before := fun h => by
      rcases h with h | ⟨h, -⟩ <;> rw [hc.seq] at h <;> cases h
    timer_idle := fun _ => by rw [htimer]; exact hend
    timer_le := by rw [htimer]; exact hs.timer_le }

/-- The instruction, where it answers a next state, gives a state with the sequencer's invariant. -/
def GivesSequencerInv (s : State) (i : Instr) : Prop := ∀ a, exec i s = .next a → SequencerInv a

theorem opOf_givesSequencerInv {s : State} (hs : SequencerInv s) {inp : Inputs} (hr : inp.rst = false) :
    GivesSequencerInv s (opOf s inp) := by
  have busy {q : SeqState} (hq : s.seq = q) (hne : q ≠ .idle) : s.seq ≠ .idle := hq ▸ hne
  rw [opOf, hr]
  refine operation_cases s inp.rx (GivesSequencerInv s)
    (start := fun _ _ _ _ _ h => idleStart_sequencerInv h)
    (poll := fun _ _ _ h => ?poll)
    (sampWait := fun hq hwait _ h => ?sampWait)
    (sampBit := fun hq _ hmore _ h => sampBit_sequencerInv hs hq hmore h)
    (sampLast := fun hq _ _ _ h => sampLast_sequencerInv hs hq h)
    (stopWait := fun hq hwait _ h => ?stopWait)
    (stopNext := fun hq _ _ _ _ h => stopNext_sequencerInv hs hq h)
    (done1 := fun hq hend _ _ _ h => commit_sequencerInv hs hq hend (stopSample_sampled s inp.rx) h)
    (done2 := fun hq hend _ _ h => commit_sequencerInv hs hq hend (samplePin_sampled s inp.rx) h)
  case poll => cases h; exact sequencerInv_congr (s := s) ⟨rfl, rfl, rfl, rfl, rfl⟩ rfl hs
  case sampWait | stopWait => cases h; exact wait_sequencerInv inp.rx hs (busy hq (by decide)) hwait

theorem execRst_sequencerInv (s : State) : ∃ t, exec .rst s = .next t ∧ SequencerInv t :=
  ⟨_, rfl, {
    bitIdx_outside := fun _ => rfl
    stopCnt_sampling := fun _ => rfl
    shreg_unsampled := fun _ _ _ => BitVec.getLsbD_zero
    frameValid_before := fun _ => rfl
    timer_idle := fun _ => Nat.zero_le _
    timer_le := Nat.zero_le _ }⟩

/-! ### Replacing the buffer's content -/

/-- `s` with other bytes in the buffer. -/
def withBuffer (s : State) (m : Memory) (e : Nat) : State := { s with buf := m, bufEpoch := e }

/-- What the meaning answers does not depend on the buffer's bytes, but for the bytes themselves. -/
def IgnoresBuffer (f : State → Result) : Prop :=
  ∀ s a, f s = .next a → ∀ m e, ∃ m', f (withBuffer s m e) = .next (withBuffer a m' e)

theorem append_of_room {s : State} (room : s.count.toNat < s.capacity) (hw : s.wptr.toNat < s.capacity) (b : Byte) :
    s.append b = .next (stored s b) := by
  rcases append_cases s b with ⟨-, -, h⟩ | ⟨full, -⟩ | ⟨full, -⟩ | ⟨outside, -⟩
  · exact h
  · exact absurd room (Nat.not_lt.mpr full)
  · exact absurd room (Nat.not_lt.mpr full)
  · exact absurd hw (Nat.not_lt.mpr outside)

theorem append_of_overwrite {s : State} (full : s.capacity ≤ s.count.toNat) (halt : s.ovfHalt = false)
    (hw : s.wptr.toNat < s.capacity) (b : Byte) : s.append b = .next (overwritten s b) := by
  rcases append_cases s b with ⟨room, -⟩ | ⟨-, -, -, h⟩ | ⟨-, halt', -⟩ | ⟨outside, -⟩
  · exact absurd room (Nat.not_lt.mpr full)
  · exact h
  · rw [halt] at halt'; cases halt'
  · exact absurd hw (Nat.not_lt.mpr outside)

theorem append_of_drop {s : State} (full : s.capacity ≤ s.count.toNat) (halt : s.ovfHalt = true) (b : Byte) :
    s.append b = .next (s.raise .bufferFullCondition) := by
  rcases append_cases s b with ⟨room, -⟩ | ⟨-, halt', -⟩ | ⟨-, -, h⟩ | ⟨-, room | halt', -⟩
  · exact absurd room (Nat.not_lt.mpr full)
  · rw [halt] at halt'; cases halt'
  · exact h
  · exact absurd room (Nat.not_lt.mpr full)
  · rw [halt] at halt'; cases halt'

/-- `Append` writes the buffer and never reads it (`42_stop_and_commit.md` R177). -/
theorem append_ignoresBuffer (b : Byte) : IgnoresBuffer fun s => s.append b := by
  intro s a h m e
  change s.append b = _ at h
  rcases append_cases s b with ⟨room, hw, hs⟩ | ⟨full, halt, hw, hs⟩ | ⟨full, halt, hs⟩ | ⟨-, -, hs⟩ <;>
    rw [hs] at h <;> cases h
  · exact ⟨_, append_of_room (s := withBuffer s m e) room hw b⟩
  · exact ⟨_, append_of_overwrite (s := withBuffer s m e) full halt hw b⟩
  · exact ⟨_, append_of_drop (s := withBuffer s m e) full halt b⟩

theorem commit_ignoresBuffer : IgnoresBuffer State.commit := by
  intro s a h m e
  obtain ⟨u, hu, rfl⟩ := commit_next h
  obtain ⟨m', hm⟩ := append_ignoresBuffer s.shreg s u hu m e
  refine ⟨m', ?_⟩
  change (withBuffer s m e).append s.shreg = _ at hm
  show andThen ((withBuffer s m e).append s.shreg) _ = _
  rw [hm]
  rfl

theorem stopSample_withBuffer (s : State) (rx : Bool) (m : Memory) (e : Nat) :
    (withBuffer s m e).stopSample rx = withBuffer (s.stopSample rx) m e := by
  cases rx <;> rfl

/-- No operation reads the buffer (`93_implementation_defined.md` U3). -/
theorem operation_ignoresBuffer {i : Instr} (hop : i.isOperation = true) (hne : i ≠ .rst) :
    IgnoresBuffer (exec i) := by
  intro s a h m e
  cases i with
  | rst => exact absurd rfl hne
  | stopDone1 rx =>
    obtain ⟨m', hm⟩ := commit_ignoresBuffer _ a h m e
    rw [← stopSample_withBuffer] at hm
    exact ⟨m', hm⟩
  | stopDone2 rx => exact commit_ignoresBuffer _ a h m e
  | stopNext rx => cases h; cases rx <;> exact ⟨m, rfl⟩
  | idleStart | idlePoll | sampWait | sampBit | sampLast | stopWait => cases h; exact ⟨m, rfl⟩
  | _ => cases hop

/-- The host's registers do not depend on the buffer's bytes either. -/
theorem command_ignoresBuffer {inp : Inputs} {s b b' : State} {m : Memory} {e : Nat}
    (hb : exec (cmdOf inp) s = .next b) (hb' : exec (cmdOf inp) (withBuffer s m e) = .next b') : SameConfig b b' := by
  have h := command_hostWritten hb
  have h' := command_hostWritten hb'
  exact ⟨h'.fullDelay.trans h.fullDelay.symm, h'.halfDelay.trans h.halfDelay.symm, h'.en.trans h.en.symm,
    h'.stop2.trans h.stop2.symm, h'.ovfHalt.trans h.ovfHalt.symm, h'.capacityTop.trans h.capacityTop.symm⟩

/-! ### The statements -/

/-- Settles O11: `step_keeps_bufferInv` (`10_state.md` R47). -/
theorem stepKeepsBufferInv : Obligations.StepKeepsBufferInv := fun _ _ => step_keeps_bufferInv

/-- Settles O14: every operation gives the invariant, which the command of the tick does not reach (`10_state.md`
R26, R27, R31, R50). -/
theorem stepKeepsSequencerInv : Obligations.StepKeepsSequencerInv := by
  intro s t hs h
  cases hr : s.input.rst with
  | true =>
    obtain ⟨u, hu, hinv⟩ := execRst_sequencerInv s.consumed
    rw [step_of_rst hr, hu] at h; cases h
    exact hinv
  | false =>
    obtain ⟨a, b, ha, -, rfl⟩ := tick_next hr h
    have hs' : SequencerInv s.consumed := sequencerInv_congr (s := s) ⟨rfl, rfl, rfl, rfl, rfl⟩ rfl hs
    exact sequencerInv_congr (joined_sameReceiver a b).toSameFrame rfl (opOf_givesSequencerInv hs' hr a ha)

/-- Settles O10: `step_next_of_bufferInv` (`00_scope.md` R9). -/
theorem stepNeverStopsUnderBufferInv : Obligations.StepNeverStopsUnderBufferInv := fun _ => step_next_of_bufferInv

/-- Settles O16: the one increment is `Append`'s, of one (`10_state.md` R34). -/
theorem countNeverDecreasesButByReset : Obligations.CountNeverDecreasesButByReset := by
  refine fun s t hr h => ⟨step_count_le hr h, ?_⟩
  rcases step_bookkeeping_cases hr h with ⟨-, hst, -⟩ | ⟨-, ⟨u, v, b, hsu, hv, hvt⟩, -⟩
  · rw [hst.count]
    exact Nat.le_add_right ..
  · rw [hvt.count, append_count hv, hsu.count]
    split <;> omega

/-- Settles O17, by `step_flagsFollowEvents` (`60_exceptions.md` R231, R232, R237). -/
theorem stickyFlagsFollowTheirEventsUntilReset : Obligations.StickyFlagsFollowTheirEventsUntilReset := by
  refine fun s t h => ⟨fun hr => ?_, fun hr => step_flagsFollowEvents hr h⟩
  rw [step_of_rst hr] at h; cases h
  exact ⟨rfl, rfl⟩

/-- Settles O22: the read data of the command, which ran on S[n] (`20_memory.md` R74, R75). -/
theorem readDataIsOfTheStateBeforeTheTick : Obligations.ReadDataIsOfTheStateBeforeTheTick := by
  intro s t hr h
  obtain ⟨a, b, -, hb, rfl⟩ := tick_next hr h
  have hdata := command_busRdata hb
  exact hdata

/-- Settles O23: `step_hostWritten` (`20_memory.md` R66). -/
theorem hostRegistersTakeOnlyBusWrites : Obligations.HostRegistersTakeOnlyBusWrites := fun _ _ => step_hostWritten

/-- Settles O24: the load of a data bit's operation, which ran on S[n] (`43_host_and_reset_ops.md` R220). -/
theorem timerLoadsTheDelayBeforeTheTick : Obligations.TimerLoadsTheDelayBeforeTheTick := by
  intro s t hr hq hend h
  obtain ⟨a, ha, hbit⟩ := exec_opOf_sample (s := s.consumed) hr hq hend
  obtain ⟨hframe, -⟩ := step_operation hr h ha
  rw [hframe.timer, hbit.timer, delayLoad_toNat, consumed_fullDelay]

/-- Settles O25: the tick polls, and `CTRL` is only reached by a write to it (`42_stop_and_commit.md` R181). -/
theorem haltedReceiverStartsNothing : Obligations.HaltedReceiverStartsNothing := by
  intro s hr hq hfull hhalt
  have hop : opOf s.consumed s.input = .idlePoll s.input.rx := by
    refine opOf_eq_idlePoll hr hq fun ⟨hok, _⟩ => ?_
    obtain ⟨-, hrun⟩ := (startOk_iff s.consumed).mp hok
    exact hrun ⟨hfull, hhalt⟩
  obtain ⟨b, -, ht⟩ := exists_tick (a := s.consumed.samplePin s.input.rx) hr (by rw [hop]; rfl)
  refine ⟨_, ht, ⟨rfl, rfl, rfl, rfl, rfl⟩, ⟨rfl, rfl, rfl⟩, sameStore_of_eq rfl rfl rfl rfl, fun haddr => ?_⟩
  rw [(step_hostWritten hr ht).ovfHalt, hhalt]
  simp [haddr]

/-- Settles O26: neither the operation nor the host's registers depend on the buffer's bytes
(`93_implementation_defined.md` U3). -/
theorem bufferContentReachesOnlyReadData : Obligations.BufferContentReachesOnlyReadData := by
  intro s t m e h
  cases hr : s.input.rst with
  | true =>
    rw [step_of_rst hr] at h; cases h
    exact ⟨_, step_of_rst (s := withBuffer s m e) hr, rfl⟩
  | false =>
    obtain ⟨a, b, ha, hb, rfl⟩ := tick_next hr h
    obtain ⟨m', ha'⟩ := operation_ignoresBuffer (opOf_isOperation ..) (opOf_ne_rst _ hr) _ a ha m e
    obtain ⟨b', hb', ht'⟩ := exists_tick (s := withBuffer s.consumed m e) hr ha'
    obtain ⟨hF, hH, hen, hstop2, hhalt, -⟩ := command_ignoresBuffer hb hb'
    refine ⟨_, ht', ?_⟩
    rw [joined, hF, hH, hen, hstop2, hhalt]
    rfl

/-- Settles O27: the operation is selected by `rst`, `rx` and the state, and only the command differs
(`43_host_and_reset_ops.md` R220). -/
theorem busCommandNeverReachesTheReceiverInItsTick : Obligations.BusCommandNeverReachesTheReceiverInItsTick := by
  intro s t inp inp' hrst hrx h
  cases hr : inp.rst with
  | true =>
    have ht : tick inp' s = .next t := by
      rw [tick_eq, if_pos hr] at h
      rw [tick_eq, hrst, if_pos hr, h]
    exact ⟨t, ht, ⟨⟨rfl, rfl, rfl, rfl, rfl⟩, ⟨rfl, rfl, rfl⟩, sameStore_of_eq rfl rfl rfl rfl, rfl⟩, rfl, rfl,
      ⟨rfl, rfl, rfl⟩⟩
  | false =>
    obtain ⟨a, b, ha, -, rfl⟩ := tick_next hr h
    have hop : opOf s inp' = opOf s inp := by rw [opOf, opOf, hrst, hrx]
    obtain ⟨b', -, ht'⟩ := exists_tick (inp := inp') (s := s) (a := a) (hrst.trans hr) (by rw [hop, ha])
    exact ⟨_, ht', ⟨⟨rfl, rfl, rfl, rfl, rfl⟩, ⟨rfl, rfl, rfl⟩, sameStore_of_eq rfl rfl rfl rfl, rfl⟩, rfl, rfl,
      ⟨rfl, rfl, rfl⟩⟩

/-- Settles O28: RST runs alone, and its values are those of `State.resetWith` (`43_host_and_reset_ops.md` R200). -/
theorem resetTickLeavesTheResetTable : Obligations.ResetTickLeavesTheResetTable := fun _ hr =>
  ⟨_, step_of_rst hr, rfl, fun _ => rfl⟩

/-- Settles O46: `operation_hostState` and `sameReceiver_of_hostOnly` (`10_state.md` R52). -/
theorem operationsAndCommandsWriteDisjointState : Obligations.OperationsAndCommandsWriteDisjointState := by
  refine fun i s t h => ⟨fun hop hne => operation_hostState hop hne h, fun hcmd => ?_⟩
  obtain ⟨t', ht', hhost⟩ := command_next i hcmd s
  rw [ht'] at h; cases h
  exact sameReceiver_of_hostOnly hhost

/-- Settles O9: `step_eq`, with what the two words decode to (`00_scope.md` R8; log entry 8). -/
theorem stepRunsDecodedOperationAndCommand : Obligations.StepRunsDecodedOperationAndCommand := by
  intro s op cmd hop hcmd
  have hsel : opOf s.consumed s.input = op := Except.ok.inj ((decodeT_selector ..).symm.trans hop)
  have hbus : cmdOf s.input = cmd := Except.ok.inj ((decodeB_busWord ..).symm.trans hcmd)
  have hrst : op = .rst ↔ s.input.rst = true := by
    cases hr : s.input.rst with
    | true => rw [← hsel, opOf, hr]; exact ⟨fun _ => rfl, fun _ => rfl⟩
    | false => exact ⟨fun h => absurd (hsel.trans h) (opOf_ne_rst _ hr), fun h => by cases h⟩
  refine ⟨fun h => step_of_rst (hrst.mp h), fun a b hne ha hb => ?_, fun e hne he => ?_⟩
  · have hr : s.input.rst = false := by rw [← Bool.not_eq_true, ← hrst]; exact hne
    exact tick_of_next hr (hsel ▸ ha) (hbus ▸ hb)
  · have hr : s.input.rst = false := by rw [← Bool.not_eq_true, ← hrst]; exact hne
    rw [step_eq, hr, hsel, he]
    rfl

/-- Settles O12: an empty buffer, as after RST (`10_state.md` R46, R47). -/
theorem resetHasBufferInv : Obligations.ResetHasBufferInv := by
  have reset (top : Fin 32768) : BufferInv (State.resetWith top) := by
    obtain ⟨t, ht, hinv⟩ := execRst_bufferInv (State.resetWith top)
    have hsame : SameBookkeeping t (State.resetWith top) := by cases ht; exact ⟨rfl, rfl, rfl, rfl, rfl⟩
    exact hsame.bufferInv hinv
  exact ⟨reset _, reset⟩

/-- Settles O15: an idle sequencer, as after RST (`10_state.md` R46). -/
theorem resetHasSequencerInv : Obligations.ResetHasSequencerInv := by
  have reset (top : Fin 32768) : SequencerInv (State.resetWith top) := by
    obtain ⟨t, ht, hinv⟩ := execRst_sequencerInv (State.resetWith top)
    have hsame : SameFrame t (State.resetWith top) := by cases ht; exact ⟨rfl, rfl, rfl, rfl, rfl⟩
    have hvalid : (State.resetWith top).frameValid = t.frameValid := by cases ht; rfl
    exact sequencerInv_congr hsame hvalid hinv
  exact ⟨reset _, reset⟩

end Sys2Proof.Proofs

/-! PROOFS. Every frame that starts commits unless RST intervenes (`42_stop_and_commit.md` R175): a measure that every
tick of a frame lowers, whatever the line and the host do. -/

namespace Sys2Proof.Proofs

open Sys2Proof Sys2Proof.Machine Sys2Proof.Laws

/-! ### The measure -/

/-- The most waits that a frame in progress can still load: one for each data bit not yet sampled, and two for the
stop bits (`41_sampling.md` R151, R152; `42_stop_and_commit.md` R171). -/
def waitsLeft (s : State) : Nat :=
  match s.seq with
  | .idle => 0
  | .sampling => 9 - s.bitIdx.toNat
  | .stopWait => 1 - s.stopCnt.toNat

/-- The most ticks that a frame in progress can still take: its present wait, and the longest waits after it. -/
def ticksLeft (s : State) : Nat := waitTicks s.timer.toNat + 65535 * waitsLeft s

theorem ticksLeft_congr {s t : State} (h : SameFrame s t) : ticksLeft t = ticksLeft s := by
  rw [ticksLeft, ticksLeft, waitsLeft, waitsLeft, h.timer, h.seq, h.bitIdx, h.stopCnt]

theorem ticksLeft_pos (s : State) : 1 ≤ ticksLeft s := Nat.le_trans (waitTicks_pos _) (Nat.le_add_right ..)

/-- A wait that goes on is one tick shorter. -/
theorem ticksLeft_wait {s : State} (rx : Bool) (hwait : 2 ≤ s.timer.toNat) :
    ticksLeft { s.samplePin rx with timer := s.timer - 1 } < ticksLeft s := by
  have htimer : waitTicks (s.timer - 1).toNat < waitTicks s.timer.toNat := by
    rw [timer_sub_one_toNat hwait, waitTicks, waitTicks]
    omega
  exact Nat.add_lt_add_right htimer _

/-- The end of a wait takes one of the waits left, and the wait loaded is no longer than the longest. -/
theorem ticksLeft_load {s t : State} (hload : t.timer.toNat = s.fullDelay.toNat)
    (hwaits : waitsLeft t + 1 = waitsLeft s) : ticksLeft t < ticksLeft s := by
  have hF := s.fullDelay.isLt
  have hnow := waitTicks_pos s.timer.toNat
  have hnext : waitTicks t.timer.toNat ≤ 65535 := by rw [hload, waitTicks]; omega
  rw [ticksLeft, ticksLeft, ← hwaits, Nat.mul_succ]
  omega

/-- The instruction commits, or leaves the frame in progress with fewer ticks to go. -/
def MovesOn (s : State) (i : Instr) : Prop :=
  commits i = true ∨ commits i = false ∧ ∀ a, exec i s = .next a → a.seq ≠ .idle ∧ ticksLeft a < ticksLeft s

theorem sampBit_movesOn {s : State} (rx : Bool) (hq : s.seq = .sampling) (hmore : s.bitIdx ≠ 7) :
    MovesOn s (.sampBit rx) := by
  refine .inr ⟨rfl, fun a h => ?_⟩
  obtain ⟨t, ht, -, hidx, htimer, hseq, -⟩ := sampBitOrsInOneBit s rx
  rw [ht] at h; cases h
  have hlt := s.bitIdx.isLt
  have hne : s.bitIdx.toNat ≠ 7 := fun h7 => hmore (BitVec.eq_of_toNat_eq h7)
  refine ⟨by rw [hseq, hq]; decide, ticksLeft_load htimer ?_⟩
  simp only [waitsLeft, hseq, hq, hidx]
  omega

theorem sampLast_movesOn {s : State} (rx : Bool) (hq : s.seq = .sampling) (hlast : s.bitIdx = 7) :
    MovesOn s (.sampLast rx) := by
  refine .inr ⟨rfl, fun a h => ?_⟩
  obtain ⟨t, ht, -, -, hseq, hcnt, htimer, -⟩ := sampLastGoesToStopWait s rx
  rw [ht] at h; cases h
  refine ⟨by rw [hseq]; decide, ticksLeft_load htimer ?_⟩
  simp only [waitsLeft, hseq, hq, hcnt, hlast]
  rfl

theorem stopNext_movesOn {s : State} (rx : Bool) (hq : s.seq = .stopWait) (hcnt : s.stopCnt = 0) :
    MovesOn s (.stopNext rx) := by
  refine .inr ⟨rfl, fun a h => ?_⟩
  obtain ⟨t, ht, -, -, -, hcnt', htimer, hseq, -⟩ := stopNextTakesTheStopSample s rx
  rw [ht] at h; cases h
  refine ⟨by rw [hseq, hq]; decide, ticksLeft_load htimer ?_⟩
  simp only [waitsLeft, hseq, hq, hcnt, hcnt']
  rfl

theorem opOf_movesOn {s : State} {inp : Inputs} (hr : inp.rst = false) (hbusy : s.seq ≠ .idle) :
    MovesOn s (opOf s inp) := by
  rw [opOf, hr]
  refine operation_cases s inp.rx (MovesOn s)
    (start := fun hq _ _ _ => absurd hq hbusy)
    (poll := fun hq _ => absurd hq hbusy)
    (sampWait := fun _ hwait => .inr ⟨rfl, fun _ h => ?sampWait⟩)
    (sampBit := fun hq _ hmore => sampBit_movesOn inp.rx hq hmore)
    (sampLast := fun hq _ hlast => sampLast_movesOn inp.rx hq hlast)
    (stopWait := fun _ hwait => .inr ⟨rfl, fun _ h => ?stopWait⟩)
    (stopNext := fun hq _ hcnt _ => stopNext_movesOn inp.rx hq hcnt)
    (done1 := fun _ _ _ _ => .inl rfl)
    (done2 := fun _ _ _ => .inl rfl)
  case sampWait | stopWait => cases h; exact ⟨hbusy, ticksLeft_wait inp.rx hwait⟩

/-! ### The step -/

/-- The frame has committed in the last tick. -/
def Done (t : State) : Prop := t.seq = .idle ∧ t.out.frameDone = true

/-- The frame is in progress. -/
def Busy (t : State) : Prop := t.seq ≠ .idle ∧ t.out.frameDone = false

theorem seq_of_commits {p q : SeqState} {op : Instr} (h : SeqMove p q op) (hc : commits op = true) : q = .idle := by
  obtain ⟨rx, rfl | rfl⟩ := (commits_iff op).mp hc
  · exact h.2
  · exact h.2

theorem step_done_or_busy {s t : State} (hr : s.input.rst = false) (hbusy : s.seq ≠ .idle) (h : step s = .next t) :
    Done t ∨ Busy t ∧ ticksLeft t < ticksLeft s := by
  obtain ⟨-, -, hdone⟩ := step_events h
  rcases opOf_movesOn (s := s.consumed) hr hbusy with hc | ⟨hc, hmoves⟩
  · exact .inl ⟨seq_of_commits (step_seqMove h) hc, hdone.trans hc⟩
  · obtain ⟨a, b, ha, -, rfl⟩ := tick_next hr h
    obtain ⟨hseq, hlt⟩ := hmoves a ha
    refine .inr ⟨⟨hseq, hdone.trans hc⟩, ?_⟩
    rw [ticksLeft_congr (joined_sameReceiver a b).toSameFrame]
    exact hlt

/-! ### The run -/

/-- As long as no RST comes, the frame is in progress before `n` ticks and committed at `n`. -/
def CommitsAt (n : Nat) (s : State) : Prop :=
  0 < n ∧ ∀ m, 0 < m → m ≤ n → NoReset s m → ∃ t, after m s = .next t ∧ (m < n → Busy t) ∧ (m = n → Done t)

/-- With an RST at the next tick, nothing is asked of the ticks from it on. -/
theorem commitsAt_of_rst {s : State} (hr : s.input.rst = true) : CommitsAt 1 s :=
  ⟨Nat.one_pos, fun _ hm _ hno => absurd ((hno 0 hm).symm.trans hr) Bool.false_ne_true⟩

theorem after_one {s t : State} (h : step s = .next t) : after 1 s = .next t := by
  rw [after_succ, h]
  rfl

theorem commitsAt_of_done {s t : State} (h : step s = .next t) (hdone : Done t) : CommitsAt 1 s := by
  refine ⟨Nat.one_pos, fun m hm hle _ => ?_⟩
  obtain rfl : m = 1 := by omega
  exact ⟨t, after_one h, fun hlt => absurd hlt (Nat.lt_irrefl 1), fun _ => hdone⟩

theorem commitsAt_of_busy {s t : State} {n : Nat} (h : step s = .next t) (hbusy : Busy t) (hn : CommitsAt n t) :
    CommitsAt (n + 1) s := by
  obtain ⟨hpos, hrun⟩ := hn
  refine ⟨Nat.succ_pos n, fun m hm hle hno => ?_⟩
  obtain ⟨k, rfl⟩ : ∃ k, m = k + 1 := ⟨m - 1, by omega⟩
  rcases Nat.eq_zero_or_pos k with rfl | hk
  · exact ⟨t, after_one h, fun _ => hbusy, by omega⟩
  · obtain ⟨u, hu, hlt, heq⟩ := hrun k hk (by omega) (noReset_step hno h)
    exact ⟨u, by rw [after_succ, h]; exact hu, fun hk' => hlt (by omega), fun hk' => heq (by omega)⟩

/-- A frame in progress commits within its measure. -/
theorem exists_commitsAt (r : Nat) {s : State} (hs : BufferInv s) (hbusy : s.seq ≠ .idle) (hr : ticksLeft s ≤ r) :
    ∃ n ≤ r, CommitsAt n s := by
  induction r generalizing s with
  | zero => exact absurd (ticksLeft_pos s) (by omega)
  | succ r ih =>
    cases hrst : s.input.rst with
    | true => exact ⟨1, by omega, commitsAt_of_rst hrst⟩
    | false =>
      obtain ⟨t, ht⟩ := step_next_of_bufferInv hs
      rcases step_done_or_busy hrst hbusy ht with hdone | ⟨⟨hne, hnot⟩, hlt⟩
      · exact ⟨1, by omega, commitsAt_of_done ht hdone⟩
      · obtain ⟨n, hn, hat⟩ := ih (step_keeps_bufferInv hs ht) hne (by omega)
        exact ⟨n + 1, by omega, commitsAt_of_busy ht ⟨hne, hnot⟩ hat⟩

/-- The start tick begins a frame whose measure is its greatest: the longest first wait, and nine waits more. -/
theorem start_busy {s t : State} (hstart : StartsFrame s) (hr : s.input.rst = false) (h : step s = .next t) :
    Busy t ∧ ticksLeft t ≤ 720885 := by
  have hop := opOf_of_startsFrame hstart hr
  obtain ⟨-, -, hdone⟩ := step_events h
  obtain ⟨hframe, -⟩ := step_operation hr h (exec_opOf_start hstart hr)
  have hseq : t.seq = .sampling := hframe.seq
  refine ⟨⟨by rw [hseq]; decide, by rw [hdone, hop]; rfl⟩, ?_⟩
  have hH := s.halfDelay.isLt
  have hF := s.fullDelay.isLt
  have hwait : waitTicks t.timer.toNat ≤ 131070 := by
    have htimer : t.timer.toNat = s.halfDelay.toNat + s.fullDelay.toNat := by
      rw [hframe.timer]
      exact startLoad_toNat ..
    rw [htimer, waitTicks]
    omega
  have hwaits : waitsLeft t = 9 := by rw [waitsLeft, hseq, hframe.bitIdx]; rfl
  rw [ticksLeft, hwaits]
  omega

/-- Settles O51: the start tick, and then `exists_commitsAt` (`42_stop_and_commit.md` R175). -/
theorem everyStartedFrameCommitsUnlessReset : Obligations.EveryStartedFrameCommitsUnlessReset := by
  intro s hs hstart
  have hat : ∃ n ≤ 720886, CommitsAt n s := by
    cases hr : s.input.rst with
    | true => exact ⟨1, by decide, commitsAt_of_rst hr⟩
    | false =>
      obtain ⟨t, ht⟩ := step_next_of_bufferInv hs
      obtain ⟨⟨hne, hnot⟩, hle⟩ := start_busy hstart hr ht
      obtain ⟨n, hn, hat⟩ := exists_commitsAt 720885 (step_keeps_bufferInv hs ht) hne hle
      exact ⟨n + 1, by omega, commitsAt_of_busy ht ⟨hne, hnot⟩ hat⟩
  obtain ⟨n, hle, hpos, hrun⟩ := hat
  exact ⟨n, hpos, hle, hrun⟩

end Sys2Proof.Proofs

/-! PROOFS. When a started frame commits (`41_sampling.md` R158), with no RST and no host write in it, and what it
leaves in the receiver. -/

namespace Sys2Proof.Proofs

open Sys2Proof Sys2Proof.Machine Sys2Proof.Laws

/-! ### Runs with no RST and no host write -/

/-- A tick with no RST and no host write. -/
structure Quiet (inp : Inputs) : Prop where
  rst : inp.rst = false
  reads : inp.busValid = true → inp.busWe = false

theorem quiet_inputAt {s : State} {n : Nat} (hr : NoReset s n) (hw : NoHostWrite s n) :
    ∀ j < n, Quiet (s.inputAt j) := fun j hj => ⟨hr j hj, hw j hj⟩

theorem Quiet.undisturbed {inp : Inputs} (h : Quiet inp) : Undisturbed inp :=
  ⟨h.rst, fun hv he => absurd ((h.reads hv).symm.trans he) Bool.false_ne_true⟩

theorem Quiet.sameConfig {s t : State} (h : Quiet s.input) (hw : HostWritten s t s.input) : SameConfig s t := by
  have hno : (s.input.busValid && s.input.busWe) = false := by
    cases hv : s.input.busValid with
    | false => rfl
    | true => rw [h.reads hv]; rfl
  obtain ⟨hF, hH, hen, hstop2, hhalt, hcap⟩ := hw
  rw [hno] at hF hH hen hstop2 hhalt
  exact ⟨hF, hH, hen, hstop2, hhalt, hcap⟩

theorem after_add {s t : State} {m : Nat} (h : after m s = .next t) (n : Nat) : after (m + n) s = after n t := by
  induction m generalizing s with
  | zero => cases h; rw [Nat.zero_add]
  | succ m ih =>
    rw [after_succ] at h
    rw [Nat.succ_add, after_succ]
    cases hs : step s with
    | next u => rw [hs] at h; exact ih h
    | fault e => rw [hs] at h; cases h
    | refused e => rw [hs] at h; cases h

/-- `t` is `m` quiet ticks after `s`: the inputs to come are seen `m` ticks nearer, and the host's registers are as
before. -/
structure QuietRun (s : State) (m : Nat) (t : State) : Prop where
  after : Machine.after m s = .next t
  bufferInv : BufferInv t
  inputs : ∀ j, t.inputAt j = s.inputAt (m + j)
  config : SameConfig s t

theorem quietRun_zero {s : State} (hs : BufferInv s) : QuietRun s 0 s :=
  ⟨rfl, hs, fun j => by rw [Nat.zero_add], ⟨rfl, rfl, rfl, rfl, rfl, rfl⟩⟩

theorem QuietRun.trans {s t u : State} {m n : Nat} (h : QuietRun s m t) (h' : QuietRun t n u) :
    QuietRun s (m + n) u where
  after := (after_add h.after n).trans h'.after
  bufferInv := h'.bufferInv
  inputs := fun j => by rw [h'.inputs, h.inputs, Nat.add_assoc]
  config := sameConfig_trans h.config h'.config

theorem QuietRun.input {s t : State} {m : Nat} (h : QuietRun s m t) : t.input = s.inputAt m := h.inputs 0

theorem quietRun_one {s t : State} (hs : BufferInv s) (hq : Quiet s.input) (h : step s = .next t) : QuietRun s 1 t where
  after := after_one h
  bufferInv := step_keeps_bufferInv hs h
  inputs := fun j => by rw [step_inputAt hq.rst h, Nat.add_comm]
  config := hq.sameConfig (step_hostWritten hq.rst h)

theorem QuietRun.step {s t u : State} {m : Nat} (h : QuietRun s m t) (hq : Quiet (s.inputAt m))
    (hu : Machine.step t = .next u) : QuietRun s (m + 1) u :=
  h.trans (quietRun_one h.bufferInv (h.input ▸ hq) hu)

theorem exists_quietRun {s : State} (hs : BufferInv s) (n : Nat) (quiet : ∀ j < n, Quiet (s.inputAt j)) :
    ∃ t, QuietRun s n t := by
  induction n with
  | zero => exact ⟨s, quietRun_zero hs⟩
  | succ n ih =>
    obtain ⟨t, ht⟩ := ih fun j hj => quiet j (Nat.lt_succ_of_lt hj)
    obtain ⟨u, hu⟩ := step_next_of_bufferInv ht.bufferInv
    exact ⟨u, ht.step (quiet n (Nat.lt_succ_self n)) hu⟩

/-! ### What a tick leaves of the buffer and of the frame -/

/-- A tick that does not commit leaves the buffer (`10_state.md` R52). -/
theorem step_sameStore {s t : State} (hr : s.input.rst = false) (h : step s = .next t)
    (hc : commits (opOf s.consumed s.input) = false) : SameStore s t := by
  have hepoch : t.bufEpoch = s.bufEpoch := by
    obtain ⟨a, b, ha, -, rfl⟩ := tick_next hr h
    obtain ⟨-, -, henv⟩ := operation_hostState (opOf_isOperation ..) (opOf_ne_rst _ hr) ha
    exact henv.bufEpoch
  rcases step_bookkeeping_cases hr h with ⟨-, hst, -⟩ | ⟨hc', -, -⟩
  · exact sameStore_of_eq hst.buf hepoch hst.count hst.wptr
  · rw [hc] at hc'; cases hc'

/-- `FRAMING_ERROR` is set by a LOW stop-bit sample alone (`60_exceptions.md` R231). -/
theorem step_framingError {s t : State} (hr : s.input.rst = false) (h : step s = .next t) :
    t.framingError = (s.framingError || (takesStopSample (opOf s.consumed s.input) && !s.input.rx)) := by
  obtain ⟨hflag, -⟩ := step_flagsFollowEvents hr h
  obtain ⟨-, hevent, -⟩ := step_events h
  rw [hflag, hevent]

/-- A tick that commits ends the frame, appends `SHREG` and keeps it (`42_stop_and_commit.md` R173, R174). -/
structure CommitTick (s t : State) : Prop where
  done : Done t
  shreg : t.shreg = s.shreg
  appends : Appends s t

theorem exec_of_commits {i : Instr} (hc : commits i = true) {s a : State} (h : exec i s = .next a) :
    ∃ u, Sampled s u ∧ u.commit = .next a := by
  obtain ⟨rx, rfl | rfl⟩ := (commits_iff i).mp hc
  · exact ⟨_, stopSample_sampled s rx, h⟩
  · exact ⟨_, samplePin_sampled s rx, h⟩

theorem step_commitTick {s t : State} (hr : s.input.rst = false) (h : step s = .next t)
    (hc : commits (opOf s.consumed s.input) = true) : CommitTick s t := by
  obtain ⟨-, -, hdone⟩ := step_events h
  have hseq := seq_of_commits (step_seqMove h) hc
  obtain ⟨a, b, ha, -, rfl⟩ := tick_next hr h
  obtain ⟨u, hu, hcommit⟩ := exec_of_commits hc ha
  have alike : AppendsAlike s s.consumed := ⟨sameStore_of_eq rfl rfl rfl rfl, rfl, rfl, rfl, rfl⟩
  exact ⟨⟨hseq, hdone.trans hc⟩, (commits_of_commit hcommit).shreg.trans hu.shreg,
    appends_congr alike (hu.appends hcommit) (joined_sameReceiver a b).toSameStore rfl rfl⟩

/-! ### A frame up to its stop-bit sample -/

/-- `t` is `m` quiet ticks into the frame that starts at the next tick of `s`; the buffer and `FRAMING_ERROR` are as
they were. -/
structure Underway (s : State) (p m : Nat) (t : State) : Prop extends InFrame s p m t where
  run : QuietRun s m t
  store : SameStore s t
  framingError : t.framingError = s.framingError

theorem start_underway {s t : State} (hs : BufferInv s) (hstart : StartsFrame s) (hq : Quiet s.input)
    (h : step s = .next t) : Underway s 0 1 t := by
  have hop := opOf_of_startsFrame hstart hq.rst
  exact {
    toInFrame := start_inFrame hs hstart hq.undisturbed h
    run := quietRun_one hs hq h
    store := step_sameStore hq.rst h (by rw [hop]; rfl)
    framingError := by rw [step_framingError hq.rst h, hop]; exact Bool.or_false _ }

/-- Before the end of the first stop delay nothing commits, and no stop bit is sampled. -/
theorem opOf_before_stopSample {s : State} {inp : Inputs} (hr : inp.rst = false)
    (h : s.seq = .sampling ∨ s.seq = .stopWait ∧ 2 ≤ s.timer.toNat) :
    commits (opOf s inp) = false ∧ takesStopSample (opOf s inp) = false := by
  rcases h with hq | ⟨hq, hwait⟩
  · rw [opOf_sampling hr hq]
    split
    · exact ⟨rfl, rfl⟩
    · split <;> exact ⟨rfl, rfl⟩
  · rw [opOf_stopWait hr hq, if_pos hwait]
    exact ⟨rfl, rfl⟩

theorem Underway.step {s t : State} {p m : Nat} (h : Underway s p m t)
    (hm : m < sampleTick s.halfDelay s.fullDelay 8) (hq : Quiet (s.inputAt m)) :
    ∃ p' u, Underway s p' (m + 1) u := by
  have hqt : Quiet t.input := h.input ▸ hq
  obtain ⟨u, hu⟩ := step_next_of_bufferInv h.run.bufferInv
  have before : t.seq = .sampling ∨ t.seq = .stopWait ∧ 2 ≤ t.timer.toNat := by
    rcases Nat.lt_or_eq_of_le h.le with hp | rfl
    · exact .inl (h.sampling hp).1
    · refine .inr ⟨(h.stopping rfl).1, ?_⟩
      by_contra hend
      exact absurd (h.at_sampleTick (by omega)) (Nat.ne_of_lt hm)
  obtain ⟨hc, hno⟩ := opOf_before_stopSample (s := t.consumed) hqt.rst before
  have next {p' : Nat} (hf : InFrame s p' (m + 1) u) : Underway s p' (m + 1) u := {
    toInFrame := hf
    run := h.run.step hq hu
    store := sameStore_trans h.store (step_sameStore hqt.rst hu hc)
    framingError := by
      rw [step_framingError hqt.rst hu, hno, Bool.false_and, Bool.or_false]
      exact h.framingError }
  by_cases hwait : 2 ≤ t.timer.toNat
  · exact ⟨p, u, next (h.wait hqt.undisturbed hu hwait)⟩
  · have hp : p < 8 := by
      refine Nat.lt_of_le_of_ne h.le fun hp => ?_
      subst hp
      rw [(h.stopping rfl).1] at before
      rcases before with hbad | ⟨-, hbad⟩
      · cases hbad
      · exact hwait hbad
    exact ⟨p + 1, u, next (h.sample hqt.undisturbed hu (by omega) hp)⟩

/-- A frame is under way until the tick of its stop-bit sample. -/
theorem exists_underway {s : State} (hs : BufferInv s) (hstart : StartsFrame s) {m : Nat} (hpos : 1 ≤ m)
    (hm : m ≤ sampleTick s.halfDelay s.fullDelay 8) (quiet : ∀ j < m, Quiet (s.inputAt j)) :
    ∃ p t, Underway s p m t := by
  induction m, hpos using Nat.le_induction with
  | base =>
    obtain ⟨t, ht⟩ := step_next_of_bufferInv hs
    exact ⟨0, t, start_underway hs hstart (quiet 0 (by decide)) ht⟩
  | succ m _ ih =>
    obtain ⟨p, t, ht⟩ := ih (by omega) fun j hj => quiet j (by omega)
    exact ht.step (by omega) (quiet m (by omega))

/-- At that tick the eight data bits have been sampled, and the first stop delay ends. -/
theorem InFrame.stop_due {s t : State} {p : Nat} (h : InFrame s p (sampleTick s.halfDelay s.fullDelay 8) t) :
    p = 8 ∧ t.timer.toNat ≤ 1 := by
  have hdue := h.due
  have hwait := waitTicks_pos t.timer.toNat
  have hp : p = 8 := by
    refine Nat.le_antisymm h.le (Nat.not_lt.mp fun hlt => ?_)
    have hmono := sampleTick_mono s.halfDelay s.fullDelay (show p + 1 ≤ 8 from hlt)
    have hstep := sampleTick_succ s.halfDelay s.fullDelay p
    have hF := waitTicks_pos s.fullDelay.toNat
    omega
  subst hp
  refine ⟨rfl, ?_⟩
  have hload : t.timer.toNat ≤ waitTicks t.timer.toNat := Nat.le_max_left ..
  omega

/-! ### A frame received -/

/-- `t` is the state after the tick at which the frame that starts at the next tick of `s` commits, `n` quiet ticks
later (`41_sampling.md` R158; `42_stop_and_commit.md` R173, R174). -/
structure Received (s : State) (n : Nat) (t : State) : Prop where
  run : QuietRun s n t
  done : Done t
  decoded : Decoded s t
  framingError : t.framingError = (s.framingError || !(s.inputAt (sampleTick s.halfDelay s.fullDelay 8)).rx)
  rxPrev : t.rxPrev = (s.inputAt (n - 1)).rx
  stored : s.count.toNat < s.capacity → t.count.toNat = s.count.toNat + 1 ∧
    t.buf.entry s.wptr.toNat = some t.shreg ∧ ∀ i, i ≠ s.wptr.toNat → t.buf.entry i = s.buf.entry i

/-- The tick that commits completes the frame, if the buffer has been left alone until then. -/
theorem received_of_commits {s t u : State} {m : Nat} (run : QuietRun s m t) (store : SameStore s t)
    (hq : Quiet (s.inputAt m)) (h : step t = .next u) (hc : commits (opOf t.consumed t.input) = true)
    (decoded : Decoded s u)
    (framingError : u.framingError = (s.framingError || !(s.inputAt (sampleTick s.halfDelay s.fullDelay 8)).rx)) :
    Received s (m + 1) u := by
  have hqt : Quiet t.input := run.input ▸ hq
  have hcommit := step_commitTick hqt.rst h hc
  exact {
    run := run.step hq h
    done := hcommit.done
    decoded := decoded
    framingError := framingError
    rxPrev := by
      rw [pinSamplerFollowsRxEveryTick t u h, hqt.rst, run.input]
      rfl
    stored := fun room => by
      have happ := hcommit.appends
      unfold Appends at happ
      rw [store.count, capacity_congr run.config.capacityTop, if_pos room] at happ
      obtain ⟨hstore, hcount, -, -⟩ := happ
      rw [← store.wptr, hcommit.shreg]
      exact ⟨hcount, hstore.entry, fun i hi => (hstore.otherEntry i hi).trans (store.entry i)⟩ }

/-- After STOP.NEXT one more full-bit delay passes, and then the frame commits (`42_stop_and_commit.md` R171,
R174). -/
theorem received_of_stopNext {s t : State} {m : Nat} (run : QuietRun s m t) (store : SameStore s t)
    (hq : t.seq = .stopWait) (hcnt : t.stopCnt = 1) (htimer : t.timer.toNat = s.fullDelay.toNat)
    (quiet : ∀ j < m + waitTicks s.fullDelay.toNat, Quiet (s.inputAt j)) (decoded : Decoded s t)
    (framingError : t.framingError = (s.framingError || !(s.inputAt (sampleTick s.halfDelay s.fullDelay 8)).rx)) :
    ∃ u, Received s (m + waitTicks s.fullDelay.toNat) u := by
  obtain ⟨k, hk⟩ : ∃ k, waitTicks s.fullDelay.toNat = k + 1 :=
    ⟨waitTicks s.fullDelay.toNat - 1, by have := waitTicks_pos s.fullDelay.toNat; omega⟩
  rw [hk] at quiet ⊢
  have quietWait : ∀ j < k, Quiet (t.inputAt j) := fun j hj => run.inputs j ▸ quiet (m + j) (by omega)
  obtain ⟨v, hv⟩ := exists_quietRun run.bufferInv k quietWait
  obtain ⟨v', hv', hwaited⟩ := after_waitedFor (s := t) (k := k) (by rw [hq]; decide)
    (fun j hj => (quietWait j hj).rst) (by rw [htimer, hk]; exact Nat.lt_succ_self k)
  obtain rfl : v = v' := Host.Outcome.next.inj (hv.after.symm.trans hv')
  have hrun := run.trans hv
  have hqv : Quiet v.input := hrun.input ▸ quiet (m + k) (by omega)
  have hend : ¬ 2 ≤ v.timer.toNat := by
    rw [hwaited.timer, htimer]
    rw [waitTicks] at hk
    omega
  have hop : opOf v.consumed v.input = .stopDone2 v.input.rx := by
    rw [opOf_stopWait (s := v.consumed) hqv.rst (hwaited.seq.trans hq),
      if_neg (show ¬ 2 ≤ v.consumed.timer.toNat from hend), if_pos]
    rw [consumed_stopCnt, hwaited.stopCnt, hcnt]
    rfl
  obtain ⟨u, hu⟩ := step_next_of_bufferInv hv.bufferInv
  have hvalid : u.frameValid = v.frameValid := by
    obtain ⟨a, b, ha, -, rfl⟩ := tick_next hqv.rst hu
    rw [hop] at ha
    exact (commits_of_commit (u := v.consumed.samplePin v.input.rx) ha).frameValid
  have hc : commits (opOf v.consumed v.input) = true := by rw [hop]; rfl
  have hno : takesStopSample (opOf v.consumed v.input) = false := by rw [hop]; rfl
  have hshreg : u.shreg = t.shreg := (step_commitTick hqv.rst hu hc).shreg.trans hwaited.shreg
  refine ⟨u, received_of_commits hrun (sameStore_trans store hwaited.toSameStore) (quiet (m + k) (by omega)) hu hc
    ⟨fun i hi => ?_, ?_⟩ ?_⟩
  · rw [hshreg]
    exact decoded.1 i hi
  · rw [hvalid, hwaited.frameValid]
    exact decoded.2
  · rw [step_framingError hqv.rst hu, hno, Bool.false_and, Bool.or_false, hwaited.framingError]
    exact framingError

/-- A frame that starts is received when its one or two stop delays have passed (`41_sampling.md` R158). -/
theorem frame_received {s : State} (hs : BufferInv s) (hstart : StartsFrame s) {n : Nat}
    (hn : n = sampleTick s.halfDelay s.fullDelay (if s.stop2 then 9 else 8) + 1)
    (quiet : ∀ j < n, Quiet (s.inputAt j)) : ∃ t, Received s n t := by
  have hpos : 1 ≤ sampleTick s.halfDelay s.fullDelay 8 := Nat.le_trans (waitTicks_pos _) (Nat.le_add_right ..)
  have hle : sampleTick s.halfDelay s.fullDelay 8 < n := by
    rw [hn]
    exact Nat.lt_succ_of_le (sampleTick_mono _ _ (by split <;> decide))
  obtain ⟨p, t, ht⟩ := exists_underway hs hstart hpos (Nat.le_refl _) fun j hj => quiet j (by omega)
  obtain ⟨rfl, hend⟩ := ht.stop_due
  obtain ⟨hseq, hcnt⟩ := ht.stopping rfl
  have hq := quiet _ hle
  have hqt : Quiet t.input := ht.input ▸ hq
  obtain ⟨u, hu⟩ := step_next_of_bufferInv ht.run.bufferInv
  have hdecoded := ht.toInFrame.stop hqt.undisturbed hu hend
  have hop : opOf t.consumed t.input = if s.stop2 = true then .stopNext t.input.rx else .stopDone1 t.input.rx := by
    rw [opOf_stopWait (s := t.consumed) hqt.rst hseq,
      if_neg (show ¬ 2 ≤ t.consumed.timer.toNat from Nat.not_le.mpr (Nat.lt_succ_of_le hend)),
      if_neg (by rw [consumed_stopCnt, hcnt]; decide), consumed_stop2, ht.run.config.stop2]
  have herror : u.framingError = (s.framingError || !(s.inputAt (sampleTick s.halfDelay s.fullDelay 8)).rx) := by
    have hsample : takesStopSample (opOf t.consumed t.input) = true := by rw [hop]; split <;> rfl
    rw [step_framingError hqt.rst hu, hsample, Bool.true_and, ht.framingError, ht.input]
  cases hstop2 : s.stop2 with
  | false =>
    rw [hstop2] at hop hn
    subst hn
    exact ⟨u, received_of_commits ht.run ht.store hq hu (by rw [hop]; rfl) hdecoded herror⟩
  | true =>
    rw [hstop2, if_pos rfl] at hop
    rw [hstop2, if_pos rfl, sampleTick_succ, Nat.add_right_comm] at hn
    subst hn
    obtain ⟨a, ha, -, -, -, hcnt', htimer, hseq', -⟩ := stopNextTakesTheStopSample t.consumed t.input.rx
    obtain ⟨hframe, -⟩ := step_operation hqt.rst hu (by rw [hop]; exact ha)
    refine received_of_stopNext (ht.run.step hq hu)
      (sameStore_trans ht.store (step_sameStore hqt.rst hu (by rw [hop]; rfl))) ?_ ?_ ?_ quiet hdecoded herror
    · rw [hframe.seq, hseq']; exact hseq
    · rw [hframe.stopCnt, hcnt']
    · rw [hframe.timer, htimer, consumed_fullDelay, ht.run.config.fullDelay]

/-- Settles O50: `frame_received` (`41_sampling.md` R158). -/
theorem startedFrameCommitsOnSchedule : Obligations.StartedFrameCommitsOnSchedule := by
  intro s n hs hstart hn hr hw
  obtain ⟨t, ht⟩ := frame_received hs hstart hn (quiet_inputAt hr hw)
  obtain ⟨hidle, hdone⟩ := ht.done
  obtain ⟨hbits, hvalid⟩ := ht.decoded
  refine ⟨t, ht.run.after, hidle, hdone, hbits, hvalid, fun room => ?_⟩
  obtain ⟨hcount, hentry, -⟩ := ht.stored room
  exact ⟨hcount, hentry⟩

end Sys2Proof.Proofs

/-! PROOFS. Bytes sent on the line: document properties 1 and 2 (`95_test_vectors.md` section 1; `30_encoding.md` R101;
`70_reset_and_hazards.md` section 4). -/

namespace Sys2Proof.Proofs

open Sys2Proof Sys2Proof.Machine Sys2Proof.Laws

/-! ### The levels on the line -/

/-- Of levels held for `P` ticks each, tick `j` sees number `j / P`. -/
theorem flatMap_replicate_getElem? (levels : List Bool) {P : Nat} (hP : 0 < P) (j : Nat) :
    (levels.flatMap (List.replicate P))[j]? = levels[j / P]? := by
  induction levels generalizing j with
  | nil => simp
  | cons level rest ih =>
    rw [List.flatMap_cons]
    rcases Nat.lt_or_ge j P with hlt | hge
    · rw [List.getElem?_append_left (by rw [List.length_replicate]; exact hlt), List.getElem?_replicate, if_pos hlt,
        Nat.div_eq_of_lt hlt]
      rfl
    · rw [List.getElem?_append_right (by rw [List.length_replicate]; exact hge), List.length_replicate, ih,
        Nat.div_eq_sub_div hP hge]
      rfl

theorem wireTicks_length (b : Byte) (P : Nat) (stop : Bool) : (wireTicks b P stop).length = 10 * P := by
  simp [wireTicks, wireLevels, Function.comp_def]
  omega

theorem wireTicks_getElem? (b : Byte) {P : Nat} (stop : Bool) (k : Nat) {j : Nat} (hlo : k * P ≤ j)
    (hhi : j < (k + 1) * P) : (wireTicks b P stop)[j]? = (wireLevels b stop)[k]? := by
  have hP : 0 < P := Nat.pos_of_ne_zero fun h => by subst h; omega
  rw [wireTicks, flatMap_replicate_getElem? _ hP, Nat.div_eq_of_lt_le hlo hhi]

/-- The eight data bits follow the start bit, the least significant first (`30_encoding.md` R101). -/
theorem wireLevels_data (b : Byte) (stop : Bool) {k : Nat} (hk : k < 8) :
    (wireLevels b stop)[k + 1]? = some (b.getLsbD k) := by
  simp [wireLevels, List.getElem?_append, hk]

/-- The line carries byte `b` in format W with bit period `P` from the next tick of `s` on. -/
def LineCarries (s : State) (b : Byte) (P : Nat) : Prop :=
  ∀ j < 10 * P, some (s.inputAt j).rx = (wireTicks b P true)[j]?

section LineCarries

variable {s : State} {b : Byte} {P : Nat}

theorem LineCarries.startBit (h : LineCarries s b P) (hP : 0 < P) : (s.inputAt 0).rx = false := by
  have hline := h 0 (by omega)
  rw [wireTicks_getElem? b true 0 (by omega) (by omega)] at hline
  exact Option.some.inj hline

theorem LineCarries.dataBit (h : LineCarries s b P) {j k : Nat} (hk : k < 8) (hlo : (k + 1) * P ≤ j)
    (hhi : j < (k + 2) * P) : (s.inputAt j).rx = b.getLsbD k := by
  have hle : (k + 2) * P ≤ 10 * P := Nat.mul_le_mul_right P (by omega)
  have hline := h j (by omega)
  rw [wireTicks_getElem? b true (k + 1) hlo hhi, wireLevels_data b true hk] at hline
  exact Option.some.inj hline

theorem LineCarries.stopBit (h : LineCarries s b P) {j : Nat} (hlo : 9 * P ≤ j) (hhi : j < 10 * P) :
    (s.inputAt j).rx = true := by
  have hline := h j hhi
  rw [wireTicks_getElem? b true 9 hlo hhi] at hline
  exact Option.some.inj hline

/-- Data samples that lie in their bit times are the byte sent (`95_test_vectors.md` L1.1). -/
theorem LineCarries.shreg_of_decoded {t : State} (h : LineCarries s b P) (hdecoded : Decoded s t)
    (hF : 1 ≤ s.fullDelay.toNat)
    (hwindow : ∀ k < 8, (k + 1) * P ≤ s.halfDelay.toNat + (k + 1) * s.fullDelay.toNat ∧
      s.halfDelay.toNat + (k + 1) * s.fullDelay.toNat < (k + 2) * P) : t.shreg = b := by
  obtain ⟨hbits, -⟩ := hdecoded
  refine BitVec.eq_of_getLsbD_eq fun k hk => ?_
  obtain ⟨hlo, hhi⟩ := hwindow k hk
  rw [hbits k hk, sampleTick_of_pos _ _ k hF]
  exact h.dataBit hk hlo hhi

end LineCarries

/-- With one stop delay and a positive full-bit delay a frame is received after H + 9 * F + 1 ticks
(`41_sampling.md` R158). -/
theorem frame_received_one_stop {s : State} (hs : BufferInv s) (hstart : StartsFrame s) (hstop2 : s.stop2 = false)
    (hF : 1 ≤ s.fullDelay.toNat)
    (quiet : ∀ j < s.halfDelay.toNat + 9 * s.fullDelay.toNat + 1, Quiet (s.inputAt j)) :
    ∃ t, Received s (s.halfDelay.toNat + 9 * s.fullDelay.toNat + 1) t :=
  frame_received hs hstart (by rw [hstop2]; exact congrArg (· + 1) (sampleTick_of_pos _ _ 8 hF).symm) quiet

/-- The stop-bit sample HIGH: the frame is valid, and no condition is raised (`42_stop_and_commit.md` R172). -/
theorem Received.valid {s t : State} {n : Nat} (h : Received s n t) (hF : 1 ≤ s.fullDelay.toNat)
    (hhigh : (s.inputAt (s.halfDelay.toNat + 9 * s.fullDelay.toNat)).rx = true) :
    t.frameValid = true ∧ t.framingError = s.framingError := by
  have htick : sampleTick s.halfDelay s.fullDelay 8 = s.halfDelay.toNat + 9 * s.fullDelay.toNat :=
    sampleTick_of_pos _ _ 8 hF
  obtain ⟨-, hvalid⟩ := h.decoded
  rw [h.framingError, hvalid, htick, hhigh]
  exact ⟨rfl, Bool.or_false _⟩

/-! ### The gap between two frames -/

/-- The receiver waits for a start edge with the line HIGH; the buffer and the flags of `s` are as they were. -/
structure Resting (s t : State) : Prop extends SameFlags s t, SameStore s t where
  idle : t.seq = .idle
  high : t.rxPrev = true

theorem Resting.step {s t u : State} (h : Resting s t) (hr : t.input.rst = false) (hhigh : t.input.rx = true)
    (hu : step t = .next u) : Resting s u := by
  have hop : opOf t.consumed t.input = .idlePoll t.input.rx :=
    opOf_eq_idlePoll hr h.idle fun ⟨_, _, hlow⟩ => by rw [hhigh] at hlow; cases hlow
  obtain ⟨a, b, ha, -, rfl⟩ := tick_next hr hu
  rw [hop] at ha
  cases ha
  exact ⟨⟨h.frameValid, h.framingError, h.bufferFull⟩,
    sameStore_trans h.toSameStore (sameStore_of_eq rfl rfl rfl rfl), h.idle, hhigh⟩

theorem exists_resting {s : State} (hs : BufferInv s) (hidle : s.seq = .idle) (hprev : s.rxPrev = true) (n : Nat)
    (quiet : ∀ j < n, Quiet (s.inputAt j)) (high : ∀ j < n, (s.inputAt j).rx = true) :
    ∃ t, QuietRun s n t ∧ Resting s t := by
  induction n with
  | zero => exact ⟨s, quietRun_zero hs, ⟨⟨rfl, rfl, rfl⟩, sameStore_of_eq rfl rfl rfl rfl, hidle, hprev⟩⟩
  | succ n ih =>
    obtain ⟨t, hrun, hrest⟩ := ih (fun j hj => quiet j (by omega)) fun j hj => high j (by omega)
    obtain ⟨u, hu⟩ := step_next_of_bufferInv hrun.bufferInv
    have hq := quiet n (Nat.lt_succ_self n)
    refine ⟨u, hrun.step hq hu, hrest.step ?_ ?_ hu⟩
    · rw [hrun.input]; exact hq.rst
    · rw [hrun.input]; exact high n (Nat.lt_succ_self n)

/-- A receiver that rests, enabled and with room, starts a frame when the line falls (`40_idle_and_start.md` R132). -/
theorem startsFrame_of_resting {r s t : State} (h : Resting r t) (hstart : StartsFrame s) (hconfig : SameConfig s t)
    (ht : BufferInv t) (room : t.count.toNat < t.capacity) (hlow : t.input.rx = false) : StartsFrame t where
  idle := h.idle
  startOk := by
    obtain ⟨hen, -⟩ := (startOk_iff s).mp hstart.startOk
    obtain ⟨-, hnotFull⟩ := ht.filling room
    refine (startOk_iff t).mpr ⟨hconfig.en.trans hen, fun ⟨hfull, _⟩ => ?_⟩
    rw [hnotFull] at hfull; cases hfull
  rxPrev := h.high
  low := hlow

/-! ### The statements -/

/-- Settles O52: the frame is received on schedule, and its samples are the levels sent (`95_test_vectors.md` L1.1). -/
theorem wireFrameIsDecodedAsSent : Obligations.WireFrameIsDecodedAsSent := by
  intro s b P n hs hstart hstop2 room hF hwindow hn hr hw hline
  subst hn
  obtain ⟨t, ht⟩ := frame_received_one_stop hs hstart hstop2 hF (quiet_inputAt hr hw)
  have hshreg : t.shreg = b := LineCarries.shreg_of_decoded hline ht.decoded hF hwindow
  obtain ⟨hcount, hentry, -⟩ := ht.stored room
  obtain ⟨hidle, -⟩ := ht.done
  refine ⟨t, ht.run.after, hidle, by rw [hentry, hshreg], hcount, fun ⟨hlo, hhi⟩ => ?_⟩
  exact ht.valid hF (LineCarries.stopBit hline (by omega) (by omega))

/-- A byte sent with a bit period of F and a half-bit delay below it is received, with its stop bit. -/
theorem received_at_bit_period {s : State} {b : Byte} {P : Nat} (hs : BufferInv s) (hstart : StartsFrame s)
    (hstop2 : s.stop2 = false) (hF : s.fullDelay.toNat = P) (hH : s.halfDelay.toNat < P)
    (quiet : ∀ j < s.halfDelay.toNat + 9 * P + 1, Quiet (s.inputAt j)) (hline : LineCarries s b P) :
    ∃ t, Received s (s.halfDelay.toNat + 9 * P + 1) t ∧ t.shreg = b ∧ t.frameValid = true ∧
      t.framingError = s.framingError := by
  subst hF
  have hpos : 1 ≤ s.fullDelay.toNat := by omega
  obtain ⟨t, ht⟩ := frame_received_one_stop hs hstart hstop2 hpos quiet
  refine ⟨t, ht, hline.shreg_of_decoded ht.decoded hpos fun k _ => ?_, ht.valid hpos (hline.stopBit ?_ ?_)⟩
  · rw [Nat.add_mul k 2, Nat.add_mul k 1]
    omega
  · omega
  · omega

/-- The line before and after the boundary of two frames with no gap. -/
theorem lineCarries_of_backToBack {s : State} {b c : Byte} {P : Nat}
    (hline : ∀ j < 20 * P, some (s.inputAt j).rx = (wireTicks b P true ++ wireTicks c P true)[j]?) :
    LineCarries s b P ∧ ∀ j < 10 * P, some (s.inputAt (10 * P + j)).rx = (wireTicks c P true)[j]? := by
  have hlen := wireTicks_length b P true
  refine ⟨fun j hj => ?_, fun j hj => ?_⟩
  · rw [hline j (by omega), List.getElem?_append_left (by omega)]
  · rw [hline (10 * P + j) (by omega), List.getElem?_append_right (by omega), hlen, Nat.add_sub_cancel_left]

/-- Once the first byte is received, the receiver rests for what is left of its ten bit times. -/
theorem received_then_resting {s : State} {b : Byte} {P : Nat} (hs : BufferInv s) (hstart : StartsFrame s)
    (hstop2 : s.stop2 = false) (hF : s.fullDelay.toNat = P) (hH : s.halfDelay.toNat < P)
    (room : s.count.toNat < s.capacity) (quiet : ∀ j < 10 * P, Quiet (s.inputAt j)) (hline : LineCarries s b P) :
    ∃ t u, QuietRun s (10 * P) u ∧ Resting t u ∧ u.count.toNat = s.count.toNat + 1 ∧
      u.buf.entry s.wptr.toNat = some b ∧ u.framingError = s.framingError := by
  obtain ⟨t, ht, hshreg, -, herror⟩ := received_at_bit_period hs hstart hstop2 hF hH
    (fun j hj => quiet j (by omega)) hline
  obtain ⟨hcount, hentry, -⟩ := ht.stored room
  obtain ⟨hidle, -⟩ := ht.done
  have hprev : t.rxPrev = true := by
    rw [ht.rxPrev]
    exact hline.stopBit (by omega) (by omega)
  obtain ⟨gap, hgap⟩ : ∃ gap, s.halfDelay.toNat + 9 * P + 1 + gap = 10 * P :=
    ⟨P - s.halfDelay.toNat - 1, by omega⟩
  obtain ⟨u, hu, hrest⟩ := exists_resting ht.run.bufferInv hidle hprev gap
    (fun j hj => by rw [ht.run.inputs]; exact quiet _ (by omega))
    (fun j hj => by rw [ht.run.inputs]; exact hline.stopBit (by omega) (by omega))
  refine ⟨t, u, hgap ▸ ht.run.trans hu, hrest, ?_, ?_, ?_⟩
  · rw [hrest.count, hcount]
  · rw [hrest.entry, hentry, hshreg]
  · rw [hrest.framingError, herror]

/-- Settles O53: the receiver rests between the first frame and the boundary, and the second frame starts there
(`70_reset_and_hazards.md` section 4). -/
theorem backToBackFramesAreBothReceived : Obligations.BackToBackFramesAreBothReceived := by
  intro s b c P n hs hstart hstop2 hF hH room hn hr hw hline
  have quiet := quiet_inputAt hr hw
  obtain ⟨hfirst, hsecond⟩ := lineCarries_of_backToBack hline
  obtain ⟨t, u, hu, hrest, hucount, huentry, huerror⟩ := received_then_resting hs hstart hstop2 hF hH (by omega)
    (fun j hj => quiet j (by omega)) hfirst
  have hcap : u.capacity = s.capacity := capacity_congr hu.config.capacityTop
  have huH : u.halfDelay.toNat = s.halfDelay.toNat := by rw [hu.config.halfDelay]
  have huF : u.fullDelay.toNat = P := by rw [hu.config.fullDelay, hF]
  have huline : LineCarries u c P := fun j hj => by rw [hu.inputs]; exact hsecond j hj
  have hustart := startsFrame_of_resting hrest hstart hu.config hu.bufferInv (by omega) (huline.startBit (by omega))
  obtain ⟨v, hv, hvshreg, hvvalid, hverror⟩ := received_at_bit_period hu.bufferInv hustart
    (hu.config.stop2.trans hstop2) huF (by omega) (fun j hj => by rw [hu.inputs]; exact quiet _ (by omega)) huline
  obtain ⟨hvcount, hventry, hvother⟩ := hv.stored (by omega)
  obtain ⟨hwptr, -⟩ := hs.filling (by omega)
  obtain ⟨huwptr, -⟩ := hu.bufferInv.filling (by omega)
  rw [huwptr, hucount] at hventry hvother
  have hlast : n = 10 * P + (u.halfDelay.toNat + 9 * P + 1) := by omega
  refine ⟨v, by rw [hlast]; exact (hu.trans hv.run).after, by omega, ?_, by rw [hventry, hvshreg], hvvalid,
    hverror.trans huerror⟩
  rw [hvother _ (by omega), ← hwptr]
  exact huentry

end Sys2Proof.Proofs
